-- ==== Sys2Proof/Word.lean ====
section
/-! DEFINITION. The words of CORE: bit sequences (R8), the 128-bit command descriptor (R70) and the
32-bit immediate (R76). CORE has no bytes (R52). -/

namespace Sys2Proof

/-- A bit sequence (R8): index 0 is the first, leftmost, most significant bit; the length counts. -/
abbrev Bits := List Bool

/-- A command descriptor (R70): bit 127 is the most significant. -/
abbrev Descriptor := BitVec 128

/-- The immediate field IMM (R76), unsigned. -/
abbrev Imm := BitVec 32

end Sys2Proof
end

