-- ==== Sys2Proof/Config.lean ====
section
/-! DEFINITION. The parameters of CORE that R7 fixes, the bounds it puts on the one it leaves open
(MAXLEN, which State carries: log 5), and the free values: constants without a body, so that nothing
can be proved of what they are. P_BURST = 0.4 (R7, R173) is a property of the random source's
answers and has no counterpart here (log 15). -/

namespace Sys2Proof.Config

/-- CHUNK (R7): checksum chunk size in bits. -/
abbrev chunkSize : Nat := 16

/-- WORD (R7): checksum word size in bits. -/
abbrev wordSize : Nat := 4

/-- CWORD (R7): word size of CKS.VFY's outer slicing. -/
abbrev cwordSize : Nat := chunkSize + wordSize

/-- ALLONES (R7): the folded sum of a valid word. -/
abbrev allOnes : Nat := 2 ^ wordSize - 1

/-- PMAX (R7): the longest literal, of a polynomial or of a PUSH, in bits. -/
abbrev literalMax : Nat := 64

/-- The least MAXLEN R7 admits. -/
abbrev maxLenLeast : Nat := 20

/-- The greatest MAXLEN R7 admits. -/
abbrev maxLenGreatest : Nat := 2 ^ 32 - 1

/-- What ACC holds after the n-th boundary between commands (R33, 93 U7): any value. -/
opaque freeAcc : Nat → BitVec 8

/-- What SR holds after the n-th boundary between commands (R33, 93 U7): any value. -/
opaque freeShiftRegister : Nat → BitVec 64

/-- What G holds after the n-th boundary between commands (R33, 93 U7): any value. -/
opaque freePolyLatch : Nat → BitVec 64

/-- What ODATA answers to an index not below OLEN (R55, 93 U6): any value. -/
opaque freeOutputBit : Nat → Bool

end Sys2Proof.Config
end

