-- ==== Sys2Proof/Machine/BitVector.lean ====
section
/-! DEFINITION. The BitVector primitives the three units share (R100 to R106), pure functions on bit
sequences. Outside the domains the rules give them they are total by convention and no command
reaches them there (log 16). -/

namespace Sys2Proof.Machine

/-- `0^k` (R8). -/
def zeros (k : Nat) : Bits := List.replicate k false

/-- `s[i..j)` (R8). -/
def slice (s : Bits) (i j : Nat) : Bits := (s.drop i).take (j - i)

/-- `~s` (R8). -/
def complement (s : Bits) : Bits := s.map not

/-- `a xor b` on sequences of equal length (R8). -/
def xorBits (a b : Bits) : Bits := List.zipWith xor a b

/-- `padLeft` (R100). -/
def padLeft (s : Bits) (block : Nat) : Bits :=
  zeros ((block - s.length % block) % block) ++ s

/-- `chunk` (R101): the slices of `k` bits, left to right. -/
def chunk (s : Bits) (k : Nat) : List Bits :=
  (List.range (s.length / k)).map fun i => slice s (i * k) ((i + 1) * k)

/-- `toInt` (R102): big-endian, the first bit the most significant. -/
def toInt (b : Bits) : Nat := b.foldl (fun v bit => 2 * v + bit.toNat) 0

/-- The `w` low bits of `v`, most significant first: R103's formula for bit `j`. -/
def lowBits (v w : Nat) : Bits := (List.range w).map fun j => v.testBit (w - 1 - j)

/-- `toBits` (R103); `none` is the failure the OVERFLOW fault reports (R201). -/
def toBits (v w : Nat) : Option Bits := if v < 2 ^ w then some (lowBits v w) else none

/-- One pass of the end-around carry (R104). -/
def foldOnce (s w : Nat) : Nat := s / 2 ^ w + s % 2 ^ w

/-- R104's loop, with a bound on its passes. -/
def foldLoop (w : Nat) : Nat → Nat → Nat
  | 0, s => s
  | passes + 1, s => if 2 ^ w - 1 < s then foldLoop w passes (foldOnce s w) else s

/-- `fold` (R104). Each pass lowers a sum above `2^w - 1`, so `s` passes are enough. -/
def fold (s w : Nat) : Nat := foldLoop w s s

/-- A bit of a bit string (R8, R85). -/
def bitOfChar : Char → Option Bool
  | '0' => some false
  | '1' => some true
  | _ => none

/-- A bit string, first character first (R8); nothing when a character is neither 0 nor 1. -/
def bitsOfChars (cs : List Char) : Option Bits := cs.mapM bitOfChar

/-- The sequence a bit string of the spec's tables spells (R8). -/
def bitsOfString (s : String) : Bits := (bitsOfChars s.toList).getD []

/-- `flip` (R106). -/
def flipBit (s : Bits) (i : Nat) : Bits := s.modify i not

end Sys2Proof.Machine
end

