-- ==== Sys2Proof/Syntax.lean ====
section
/-! DEFINITION. The thirteen commands (R72), one constructor per row of the opcode table, and the
polynomial operand (R74, R75). -/

namespace Sys2Proof

/-- The polynomial operand as PSEL, N and DATA give it (R74, R75, R85): a literal, first bit leading,
or one of the four names. -/
inductive Poly where
  | literal (bits : Bits)
  | crc8
  | crc10
  | crc16
  | crc32
deriving DecidableEq, Repr

inductive Instr where
  /-- `NOP` (R110). -/
  | nop
  /-- `CLR` (R111). -/
  | clr
  /-- `PUSH "<bits>"` (R112). -/
  | push (bits : Bits)
  /-- `MOV` (R113). -/
  | mov
  /-- `CKS.GEN` (R121). -/
  | cksGen
  /-- `CKS.VFY` (R122). -/
  | cksVfy
  /-- `CRC.DIV <poly>` (R145). -/
  | crcDiv (poly : Poly)
  /-- `CRC.GEN <poly>` (R146). -/
  | crcGen (poly : Poly)
  /-- `CRC.VFY <poly>` (R147). -/
  | crcVfy (poly : Poly)
  /-- `INJ.RND <count>` (R175). -/
  | injRnd (count : Imm)
  /-- `INJ.BST <burstSize>` (R176). -/
  | injBst (size : Imm)
  /-- `INJ.ODD` (R177). -/
  | injOdd
  /-- `INJ.UND <poly>, <shift>` (R178). -/
  | injUnd (poly : Poly) (shift : Imm)
deriving DecidableEq, Repr

end Sys2Proof
end

