-- ==== Sys2Proof/WellFormed.lean ====
section
/-! DEFINITION. Well-formed commands: those that have a descriptor R78 does not call illegal. A
literal has at most 64 bits (R75, R77, R78 f); an immediate always fits (R76). A literal polynomial
without a leading 1 is well-formed: it has a legal descriptor, and the command carrying it raises
POLY (R203, log 12). -/

namespace Sys2Proof

def Poly.wellFormed : Poly → Bool
  | .literal bits => decide (bits.length ≤ Config.literalMax)
  | .crc8 => true
  | .crc10 => true
  | .crc16 => true
  | .crc32 => true

def Instr.wellFormed : Instr → Bool
  | .nop => true
  | .clr => true
  | .push bits => decide (bits.length ≤ Config.literalMax)
  | .mov => true
  | .cksGen => true
  | .cksVfy => true
  | .crcDiv p => p.wellFormed
  | .crcGen p => p.wellFormed
  | .crcVfy p => p.wellFormed
  | .injRnd _ => true
  | .injBst _ => true
  | .injOdd => true
  | .injUnd p _ => p.wellFormed

end Sys2Proof
end

