-- ==== Sys2Proof/Decode.lean ====
section
/-! DEFINITION. The decoder, total on every 128-bit descriptor and rejecting by name (R70 to R81),
and the encoder written from the same tables. -/

namespace Sys2Proof

open Sys2Proof.Machine

/-- The opcodes (R72). -/
inductive Opcode where
  | nop | clr | push | mov | cksGen | cksVfy | crcDiv | crcGen | crcVfy
  | injRnd | injBst | injOdd | injUnd
deriving DecidableEq, Repr

/-- R72's table. -/
def opcodeTable : List (BitVec 8 × Opcode) :=
  [(0x00#8, .nop), (0x01#8, .clr), (0x02#8, .push), (0x03#8, .mov),
   (0x10#8, .cksGen), (0x11#8, .cksVfy),
   (0x20#8, .crcDiv), (0x21#8, .crcGen), (0x22#8, .crcVfy),
   (0x30#8, .injRnd), (0x31#8, .injBst), (0x32#8, .injOdd), (0x33#8, .injUnd)]

def opcodeOf (byte : BitVec 8) : Option Opcode :=
  (opcodeTable.find? fun row => row.1 == byte).map Prod.snd

def opcodeByte (o : Opcode) : BitVec 8 :=
  ((opcodeTable.find? fun row => row.2 == o).map Prod.fst).getD 0

/-- The fields of format D128 (R71). -/
structure Fields where
  op : BitVec 8
  psel : BitVec 4
  n : BitVec 8
  zero : BitVec 12
  imm : Imm
  data : BitVec 64
deriving DecidableEq, Repr

/-- R71, field by field: the start bit and the width of each. -/
def fieldsOf (d : Descriptor) : Fields :=
  { op := d.extractLsb' 120 8
    psel := d.extractLsb' 116 4
    n := d.extractLsb' 108 8
    zero := d.extractLsb' 96 12
    imm := d.extractLsb' 64 32
    data := d.extractLsb' 0 64 }

/-- The descriptor that has these fields (R71). -/
def ofFields (f : Fields) : Descriptor :=
  f.op ++ f.psel ++ f.n ++ f.zero ++ f.imm ++ f.data

/-- Why a descriptor is illegal: the conditions of R78, (a) to (g) in its order. Each of them raises
the one fault ILLEGAL. -/
inductive Illegal where
  | reservedOpcode
  | reservedBits
  | unusedField
  | reservedSelector
  | namedWithLiteral
  | literalTooLong
  | dataAboveLength
deriving DecidableEq, Repr

inductive Decoded where
  | command (i : Instr)
  | illegal (why : Illegal)
deriving DecidableEq, Repr

/-- The `k` low bits of DATA as a sequence, `b[j] = DATA[k-1-j]` (R75, R77). -/
def bitsOfData (k : Nat) (data : BitVec 64) : Bits :=
  (List.range k).map fun j => data.getLsbD (k - 1 - j)

/-- A sequence of at most 64 bits, right-aligned in DATA (R75, R77). -/
def dataOfBits (b : Bits) : BitVec 64 := BitVec.ofNat 64 (toInt b)

/-- R78 (f) and (g): the literal of N bits, of a PUSH or of a polynomial, or why there is none. -/
def decodeLiteral (f : Fields) : Except Illegal Bits :=
  if Config.literalMax < f.n.toNat then .error .literalTooLong
  else if f.data >>> f.n.toNat ≠ 0 then .error .dataAboveLength
  else .ok (bitsOfData f.n.toNat f.data)

/-- R78 (e): a named polynomial leaves N and DATA 0. -/
def decodeNamed (f : Fields) (p : Poly) : Except Illegal Poly :=
  if f.n ≠ 0 ∨ f.data ≠ 0 then .error .namedWithLiteral else .ok p

/-- The polynomial operand (R74), with R78 (d) to (g). -/
def decodePoly (f : Fields) : Except Illegal Poly :=
  match f.psel.toNat with
  | 1 => (decodeLiteral f).map .literal
  | 2 => decodeNamed f .crc8
  | 3 => decodeNamed f .crc10
  | 4 => decodeNamed f .crc16
  | 5 => decodeNamed f .crc32
  | _ => .error .reservedSelector

/-- A command without operands: R78 (c). -/
def decodePlain (f : Fields) (i : Instr) : Except Illegal Instr :=
  if f.psel ≠ 0 ∨ f.n ≠ 0 ∨ f.imm ≠ 0 ∨ f.data ≠ 0 then .error .unusedField else .ok i

/-- A command whose one operand is IMM (R73, R76). -/
def decodeImm (f : Fields) (i : Imm → Instr) : Except Illegal Instr :=
  if f.psel ≠ 0 ∨ f.n ≠ 0 ∨ f.data ≠ 0 then .error .unusedField else .ok (i f.imm)

/-- PUSH (R73, R77). -/
def decodePush (f : Fields) : Except Illegal Instr :=
  if f.psel ≠ 0 ∨ f.imm ≠ 0 then .error .unusedField else (decodeLiteral f).map .push

/-- A command whose one operand is a polynomial (R73). -/
def decodeCrc (f : Fields) (i : Poly → Instr) : Except Illegal Instr :=
  if f.imm ≠ 0 then .error .unusedField else (decodePoly f).map i

/-- INJ.UND: a polynomial and a shift (R73). -/
def decodeUnd (f : Fields) : Except Illegal Instr :=
  (decodePoly f).map fun p => .injUnd p f.imm

/-- The operands of each opcode (R73). -/
def decodeOperands (f : Fields) : Opcode → Except Illegal Instr
  | .nop => decodePlain f .nop
  | .clr => decodePlain f .clr
  | .push => decodePush f
  | .mov => decodePlain f .mov
  | .cksGen => decodePlain f .cksGen
  | .cksVfy => decodePlain f .cksVfy
  | .crcDiv => decodeCrc f .crcDiv
  | .crcGen => decodeCrc f .crcGen
  | .crcVfy => decodeCrc f .crcVfy
  | .injRnd => decodeImm f .injRnd
  | .injBst => decodeImm f .injBst
  | .injOdd => decodePlain f .injOdd
  | .injUnd => decodeUnd f

def decodeFields (f : Fields) : Except Illegal Instr :=
  match opcodeOf f.op with
  | none => .error .reservedOpcode
  | some o => if f.zero ≠ 0 then .error .reservedBits else decodeOperands f o

/-- Decoding is total (R81): a command of R72 with its operands, or ILLEGAL. The POLY fault of a
literal polynomial is raised by the command that carries it, as its first check (R212, log 12). -/
def decode (d : Descriptor) : Decoded :=
  match decodeFields (fieldsOf d) with
  | .ok i => .command i
  | .error why => .illegal why

/-- The opcode of a command (R72). -/
def opcodeOfInstr : Instr → Opcode
  | .nop => .nop
  | .clr => .clr
  | .push _ => .push
  | .mov => .mov
  | .cksGen => .cksGen
  | .cksVfy => .cksVfy
  | .crcDiv _ => .crcDiv
  | .crcGen _ => .crcGen
  | .crcVfy _ => .crcVfy
  | .injRnd _ => .injRnd
  | .injBst _ => .injBst
  | .injOdd => .injOdd
  | .injUnd _ _ => .injUnd

/-- The value of PSEL (R74). -/
def polySelector : Poly → BitVec 4
  | .literal _ => 1
  | .crc8 => 2
  | .crc10 => 3
  | .crc16 => 4
  | .crc32 => 5

/-- The literal bits that N and DATA carry; a named polynomial carries none (R73). -/
def polyLiteral : Poly → Bits
  | .literal bits => bits
  | .crc8 => []
  | .crc10 => []
  | .crc16 => []
  | .crc32 => []

/-- The fields of a command (R73): PSEL, IMM and the literal. -/
def fieldsWith (o : Opcode) (psel : BitVec 4) (imm : Imm) (literal : Bits) : Fields :=
  { op := opcodeByte o, psel := psel, n := BitVec.ofNat 8 literal.length, zero := 0, imm := imm,
    data := dataOfBits literal }

def encodeFields : Instr → Fields
  | .push bits => fieldsWith .push 0 0 bits
  | .crcDiv p => fieldsWith .crcDiv (polySelector p) 0 (polyLiteral p)
  | .crcGen p => fieldsWith .crcGen (polySelector p) 0 (polyLiteral p)
  | .crcVfy p => fieldsWith .crcVfy (polySelector p) 0 (polyLiteral p)
  | .injRnd count => fieldsWith .injRnd 0 count []
  | .injBst size => fieldsWith .injBst 0 size []
  | .injUnd p shift => fieldsWith .injUnd (polySelector p) shift (polyLiteral p)
  | .nop => fieldsWith .nop 0 0 []
  | .clr => fieldsWith .clr 0 0 []
  | .mov => fieldsWith .mov 0 0 []
  | .cksGen => fieldsWith .cksGen 0 0 []
  | .cksVfy => fieldsWith .cksVfy 0 0 []
  | .injOdd => fieldsWith .injOdd 0 0 []

/-- The descriptor of a well-formed command. Another command has none (R75, 93 U17); the value here is
then a convention no script reaches (log 16). -/
def encode (i : Instr) : Descriptor := ofFields (encodeFields i)

/-- The command the decoder reads from the descriptor with number `w`, bit 0 its least significant;
the bits above `nbits` are 0. A descriptor reaches CORE whole (R80), so there is no byte order to
lay out. -/
def decodeTableWord (nbits w : Nat) : Option Instr :=
  match decode (BitVec.ofNat 128 (w % 2 ^ nbits)) with
  | .command i => some i
  | .illegal _ => none

end Sys2Proof
end

