-- ==== Sys2Proof/Machine/State.lean ====
section
/-! DEFINITION. The state of CORE (10_state.md) and of what it meets at its ports, the reasons a step
of the model can stop, and the machine right after reset (R45). INVENTORY.md, State, lists every
field with its rule. -/

namespace Sys2Proof.Machine

/-- The faults of CORE (R200). Each is recorded in STATUS.ERR and is a next state of the machine. -/
inductive CoreFault where
  | overflow
  | illegal
  | poly
  | range
  | short
  | cap
  | rng
deriving DecidableEq, Repr

/-- The two kinds of draw (R171). -/
inductive DrawKind where
  | int
  | bern
deriving DecidableEq, Repr

/-- `Draw(kind, lo, hi)` (R171). -/
structure DrawRequest where
  kind : DrawKind
  lo : Nat
  hi : Nat
deriving DecidableEq, Repr

/-- A draw is one request and one answer (R171). -/
structure Draw where
  request : DrawRequest
  answer : Nat
deriving DecidableEq, Repr

/-- The injector's working registers while an `INJ.*` command is at a draw (R32): the working copy,
the loop counters, and for INJ.ODD the indices already chosen. -/
inductive InjRun where
  /-- INJ.RND: `left` index draws to go (R175). -/
  | flips (left : Nat) (work : Bits)
  /-- INJ.BST: before the start draw (R176). -/
  | burstStart (size : Nat) (work : Bits)
  /-- INJ.BST: `left` positions to decide, `pos` the next (R176). -/
  | burst (pos left : Nat) (work : Bits)
  /-- INJ.ODD: before the draw of the count (R177). -/
  | oddCount (work : Bits)
  /-- INJ.ODD: `left` ranks to draw (R177). -/
  | oddPick (left : Nat) (chosen : List Nat) (work : Bits)
deriving DecidableEq, Repr

/-- What the host can do to CORE (R56), and to the source on the RNG port (R231, R232): `attach`
attaches or reseeds a random source whose further answers are these (log 2). -/
inductive HostEvent where
  | command (d : BitVec 128)
  | reset
  | readStatus
  | readIlen
  | readOlen
  | readOdata (index : Nat)
  | attach (answers : List Nat)
deriving DecidableEq, Repr

/-- What a port read returned to the host (R56): a 32-bit word, or one bit of OBUF. -/
inductive Reply where
  | none
  | word (w : BitVec 32)
  | bit (b : Bool)
deriving DecidableEq, Repr

/-- Why a step has no next state although nothing is refused. -/
inductive Fault where
  /-- Raised by `step` when an `INJ.*` command waits for an answer and the host does nothing more:
  the hang of R172, the stuck state of 93 U12. It is no fault of CORE and changes no state. Safe:
  the model stops where the hardware waits for ever. -/
  | randomSourceSilent
deriving DecidableEq, Repr

/-- Why the model gives a step no meaning. -/
inductive Refusal where
  /-- Raised by an arm of `exec` for a command without a meaning; no arm does. Safe. -/
  | notModelled (mnemonic : String)
  /-- Raised by `step` when the host writes a descriptor or reads a port while a command waits for
  the random source: 93 U14 leaves this to no rule. Safe: the model stops. -/
  | hostTransactionDuringCommand
deriving DecidableEq, Repr

structure State where
  /-- IBUF (R20, R21). -/
  ibuf : Bits
  /-- OBUF (R20, R23). -/
  obuf : Bits
  /-- STATUS.VALID (R25, R26). -/
  valid : Bool
  /-- STATUS.ERR (R25, R27): `none` is code 0, no fault recorded. -/
  err : Option CoreFault
  /-- ACC, hidden (R30, R33). -/
  acc : BitVec 8
  /-- SR, hidden, right-aligned (R31, R33). -/
  sr : BitVec 64
  /-- G, hidden, right-aligned (R31, R33). -/
  gLatch : BitVec 64
  /-- The injector's working registers while a command waits for the random source (R32, R172). -/
  inj : Option InjRun
  /-- MAXLEN (R7, R61), the parameter left open; no step changes it (log 5). -/
  maxLen : Nat
  /-- The host's transactions still to come, oldest first (R6, R56; log 1). -/
  host : List HostEvent
  /-- The answers the random source will still give (R34, R171; log 2). -/
  answers : List Nat
  /-- The draws answered so far, oldest first: R13's observable (log 14). -/
  draws : List Draw
  /-- What the last port read returned (R56; log 10). -/
  reply : Reply
  /-- The counter the free values of Config are applied to (log 7). -/
  tick : Nat
deriving DecidableEq, Repr

/-- The machine right after reset, under a given MAXLEN (R45): both buffers empty, STATUS 0. The
hidden registers are unspecified there; their values here are the model's choice (log 6). -/
def State.resetWith (maxLen : Nat) : State :=
  { ibuf := []
    obuf := []
    valid := false
    err := none
    acc := 0
    sr := 0
    gLatch := 0
    inj := none
    maxLen := maxLen
    host := []
    answers := []
    draws := []
    reply := .none
    tick := 0 }

/-- The machine right after reset (R45), under the greatest MAXLEN R7 admits (log 5). -/
def State.reset : State := State.resetWith Config.maxLenGreatest

end Sys2Proof.Machine
end

