-- ==== Sys2Proof/Machine/Flags.lean ====
section
/-! DEFINITION. STATUS, its two fields and the two length registers as the host reads them (R24, R25,
R200). CORE has no other flag. -/

namespace Sys2Proof.Machine

/-- The code of a fault in STATUS.ERR (R200). -/
def faultCode : CoreFault → BitVec 4
  | .overflow => 1
  | .illegal => 2
  | .poly => 3
  | .range => 4
  | .short => 5
  | .cap => 6
  | .rng => 7

/-- The field STATUS.ERR (R25, R200): 0 when no fault has been recorded. -/
def errField : Option CoreFault → BitVec 4
  | none => 0
  | some f => faultCode f

/-- STATUS (R25): bits 31:8 zero, 7:4 ERR, 3:1 zero, 0 VALID. -/
def statusWord (s : State) : BitVec 32 :=
  (0#24) ++ errField s.err ++ (0#3) ++ BitVec.ofBool s.valid

/-- ILEN (R24). -/
def ilenWord (s : State) : BitVec 32 := BitVec.ofNat 32 s.ibuf.length

/-- OLEN (R24). -/
def olenWord (s : State) : BitVec 32 := BitVec.ofNat 32 s.obuf.length

/-- CKS.VFY's and CRC.VFY's result in STATUS.VALID (R26). -/
def setValid (v : Bool) (s : State) : State := { s with valid := v }

end Sys2Proof.Machine
end

