-- ==== Sys2Proof/Machine/Ops.lean ====
section
/-! DEFINITION. The named operations on CORE's registers: whole-buffer writes (R21, R23), fault entry
(R210) and reset beside it (R230), the only way out of a fault, the working registers of the units
(R30, R31), what the boundary between commands does to them (R33), and the answer of the ODATA port
(R55). -/

namespace Sys2Proof.Machine

/-- One step's outcome. -/
abbrev Outcome := Host.Outcome State Fault Refusal

/-- `IBUF <- b` (R21). -/
def setIbuf (b : Bits) (s : State) : State := { s with ibuf := b }

/-- `OBUF <- b`, wholly replaced (R23). -/
def setObuf (b : Bits) (s : State) : State := { s with obuf := b }

/-- What checksum_accumulator leaves in ACC (R30, R129; log 8). -/
def setAcc (a : BitVec 8) (s : State) : State := { s with acc := a }

/-- What crc_lfsr_engine leaves in SR (R31, R150; log 8). -/
def setShiftRegister (r : BitVec 64) (s : State) : State := { s with sr := r }

/-- What crc_lfsr_engine leaves in G (R31, R150; log 8). -/
def setPolyLatch (g : BitVec 64) (s : State) : State := { s with gLatch := g }

/-- Fault entry (R210): STATUS.ERR takes the code, and only when none is recorded (R27); nothing else
changes. -/
def recordFault (f : CoreFault) (s : State) : State :=
  match s.err with
  | none => { s with err := some f }
  | some _ => s

/-- `raise F` (R210): the command stops and the machine goes on in the FAULT state. -/
def raise (f : CoreFault) (s : State) : Outcome := .next (recordFault f s)

/-- The boundary between commands: the hidden registers hold any value (R33, 93 U7; log 7). -/
def settle (s : State) : State :=
  { s with
    acc := Config.freeAcc s.tick
    sr := Config.freeShiftRegister s.tick
    gLatch := Config.freePolyLatch s.tick
    tick := s.tick + 1 }

/-- RESET (R230): every piece of CORE's state at R45's value, a command in progress abandoned. What
is outside CORE (the host, the random source, R231) and MAXLEN stay. -/
def resetCore (s : State) : State :=
  settle { s with ibuf := [], obuf := [], valid := false, err := none, inj := none }

/-- `ODATA(i)` (R55): `OBUF[i]`, or any value where there is no such bit (93 U6; log 9). -/
def odataBit (index : Nat) (s : State) : Bool :=
  match s.obuf[index]? with
  | some b => b
  | none => Config.freeOutputBit s.tick

end Sys2Proof.Machine
end

