-- ==== Sys2Proof/Machine/Operands.lean ====
section
/-! DEFINITION. The operands of the commands: resolving a polynomial (R140, R141) and its one check
(R142, R203). The immediate is used as it stands (R76), pushed data is the sequence the descriptor
carries (R77). -/

namespace Sys2Proof.Machine

/-- The bit pattern of a polynomial operand (R140); the four named ones are R141's, character
for character. -/
def polyPattern : Poly → Bits
  | .literal bits => bits
  | .crc8 => bitsOfString "100000111"
  | .crc10 => bitsOfString "11000000011"
  | .crc16 => bitsOfString "11000000000000101"
  | .crc32 => bitsOfString "100000100110000010001110110110111"

/-- At least one bit, and a leading 1 (R142). -/
def validPattern (g : Bits) : Bool := g.head? == some true

/-- Resolve the polynomial and check it before any operand is looked at (R203, R212). -/
def withPoly (p : Poly) (s : State) (run : Bits → Outcome) : Outcome :=
  if validPattern (polyPattern p) then run (polyPattern p) else raise .poly s

end Sys2Proof.Machine
end

