-- ==== Sys2Proof/Machine/Buffer.lean ====
section
/-! DEFINITION. The buffer commands NOP, CLR, PUSH, MOV (R110 to R113). Each meaning is that of a
command accepted with STATUS.ERR = 0; the FAULT state is the command port's business (R211). -/

namespace Sys2Proof.Machine

/-- NOP (R110). -/
def execNop (s : State) : Outcome := .next s

/-- CLR (R111). -/
def execClr (s : State) : Outcome := .next (setIbuf [] s)

/-- PUSH (R112): CAP when the appended sequence would not fit, else `IBUF <- IBUF ++ b`. -/
def execPush (bits : Bits) (s : State) : Outcome :=
  if s.maxLen < s.ibuf.length + bits.length then raise .cap s
  else .next (setIbuf (s.ibuf ++ bits) s)

/-- MOV (R113). -/
def execMov (s : State) : Outcome := .next (setIbuf s.obuf s)

end Sys2Proof.Machine
end

