-- ==== Sys2Proof/Machine/Checksum.lean ====
section
/-! DEFINITION. checksum_accumulator: CKS.GEN (R121), CKS.VFY (R122), and what the serial sequence of
R129 leaves in ACC. -/

namespace Sys2Proof.Machine

/-- The exact sum of a group's words (R121, R122). -/
def wordSum (group : Bits) : Nat := ((chunk group Config.wordSize).map toInt).sum

/-- The folded sum of a group (R121, R122). -/
def foldedSum (group : Bits) : Nat := fold (wordSum group) Config.wordSize

/-- A chunk followed by its field, the complemented folded sum (R121). -/
def chunkWithField (c : Bits) : Option Bits :=
  (toBits (foldedSum c) Config.wordSize).map fun f => c ++ complement f

/-- The chunks of CKS.GEN (R121): the input padded to 16 bits. -/
def generateChunks (payload : Bits) : List Bits :=
  chunk (padLeft payload Config.chunkSize) Config.chunkSize

/-- The codeword of R121; `none` where `toBits` fails. -/
def checksumCodeword (payload : Bits) : Option Bits :=
  ((generateChunks payload).mapM chunkWithField).map List.flatten

/-- The length CKS.GEN's result will have, from the length of its input alone (R206). -/
def codewordLength (payload : Bits) : Nat :=
  let padded := (padLeft payload Config.chunkSize).length
  padded + padded / Config.chunkSize * Config.wordSize

/-- The words of CKS.VFY (R122): the input padded to 20 bits, not 16 (R126). -/
def verifyWords (codeword : Bits) : List Bits :=
  chunk (padLeft codeword Config.cwordSize) Config.cwordSize

/-- R122: every word folds to all ones. -/
def checksumValid (codeword : Bits) : Bool :=
  (verifyWords codeword).all fun x => foldedSum x == Config.allOnes

/-- ACC after one group of R129's serial sequence, in the 8-bit register: cleared, each word added,
folded at the end. -/
def accAfterGroup (group : Bits) : BitVec 8 :=
  let sum := (chunk group Config.wordSize).foldl (fun a w => a + BitVec.ofNat 8 (toInt w)) 0#8
  BitVec.ofNat 8 (fold sum.toNat Config.wordSize)

/-- R129's other order: folded after every addition. -/
def accFoldedEachWord (group : Bits) : BitVec 8 :=
  (chunk group Config.wordSize).foldl
    (fun a w => BitVec.ofNat 8 (fold (a + BitVec.ofNat 8 (toInt w)).toNat Config.wordSize)) 0#8

/-- ACC after the last group; without a group nothing is loaded (R129; log 8). -/
def accAfter (groups : List Bits) (acc : BitVec 8) : BitVec 8 :=
  groups.foldl (fun _ x => accAfterGroup x) acc

/-- CKS.GEN (R121). -/
def execCksGen (s : State) : Outcome :=
  if s.maxLen < codewordLength s.ibuf then raise .cap s
  else
    match checksumCodeword s.ibuf with
    | some out => .next (setAcc (accAfter (generateChunks s.ibuf) s.acc) (setObuf out s))
    | none => raise .overflow s

/-- CKS.VFY (R122). -/
def execCksVfy (s : State) : Outcome :=
  .next (setAcc (accAfter (verifyWords s.ibuf) s.acc) (setValid (checksumValid s.ibuf) s))

end Sys2Proof.Machine
end

