-- ==== Sys2Proof/Machine/Crc.lean ====
section
/-! DEFINITION. crc_lfsr_engine: the division (R143) with its step count (R144), CRC.DIV (R145),
CRC.GEN (R146), CRC.VFY (R147), and the register-level sequence of R150 in SR and G. -/

namespace Sys2Proof.Machine

/-- R143's conditional exclusive-or: `if R[0] = 1: R <- R xor g`. -/
def reduce (r g : Bits) : Bits := if r.head? == some true then xorBits r g else r

/-- R143's loop from the register `r` with the dividend bits still to come; it returns the remainder
and the number of steps taken. The last step drops the leading bit and appends none. -/
def divideLoop (g : Bits) : Bits → Bits → Bits × Nat
  | r, [] => ((reduce r g).drop 1, 1)
  | r, b :: rest =>
    let out := divideLoop g ((reduce r g).drop 1 ++ [b]) rest
    (out.1, out.2 + 1)

/-- `xorDivide` (R143). -/
def xorDivide (d g : Bits) : Bits :=
  (divideLoop g (d.take g.length) (d.drop g.length)).1

/-- The reduction steps `xorDivide` performs (R144). -/
def divisionSteps (d g : Bits) : Nat :=
  (divideLoop g (d.take g.length) (d.drop g.length)).2

/-- The dividend of CRC.GEN: the data and `n - 1` zeros (R146). -/
def generateDividend (data g : Bits) : Bits := data ++ zeros (g.length - 1)

/-- A sequence of at most 64 bits in a 64-bit register, its last bit in bit 0 (R31). -/
def registerOf (b : Bits) : BitVec 64 := BitVec.ofNat 64 (toInt b)

/-- The conditional exclusive-or in the registers: SR's leading bit is bit `n - 1` (R150). -/
def reduceRegister (n : Nat) (g sr : BitVec 64) : BitVec 64 :=
  if sr.getLsbD (n - 1) then sr ^^^ g else sr

/-- One step of R150 with a dividend bit: reduce, drop the leading bit (then 0), shift the bit in. -/
def shiftIn (n : Nat) (g sr : BitVec 64) (b : Bool) : BitVec 64 :=
  (reduceRegister n g sr) <<< 1 ||| (BitVec.ofBool b).setWidth 64

/-- SR at the end of a division (R150): loaded with the first `n` dividend bits, stepped once per
further bit, and the final step without one. -/
def shiftRegisterAfter (d g : Bits) : BitVec 64 :=
  let n := g.length
  let run := (d.drop n).foldl (shiftIn n (registerOf g)) (registerOf (d.take n))
  reduceRegister n (registerOf g) run

/-- G and SR as a division leaves them (R31, R150; log 8). -/
def latchDivision (d g : Bits) (s : State) : State :=
  setShiftRegister (shiftRegisterAfter d g) (setPolyLatch (registerOf g) s)

/-- CRC.DIV (R145). -/
def execCrcDiv (p : Poly) (s : State) : Outcome :=
  withPoly p s fun g =>
    if s.ibuf.length < g.length then raise .short s
    else if s.maxLen < g.length - 1 then raise .cap s
    else .next (latchDivision s.ibuf g (setObuf (xorDivide s.ibuf g) s))

/-- CRC.GEN (R146). -/
def execCrcGen (p : Poly) (s : State) : Outcome :=
  withPoly p s fun g =>
    if s.ibuf = [] then .next (setPolyLatch (registerOf g) (setObuf [] s))
    else if s.maxLen < s.ibuf.length + (g.length - 1) then raise .cap s
    else
      let d := generateDividend s.ibuf g
      .next (latchDivision d g (setObuf (s.ibuf ++ xorDivide d g) s))

/-- CRC.VFY (R147). -/
def execCrcVfy (p : Poly) (s : State) : Outcome :=
  withPoly p s fun g =>
    if s.ibuf = [] then .next (setPolyLatch (registerOf g) (setValid true s))
    else if s.ibuf.length < g.length then raise .short s
    else
      let rem := xorDivide s.ibuf g
      .next (latchDivision s.ibuf g (setValid (rem == zeros (g.length - 1)) s))

end Sys2Proof.Machine
end

