-- ==== Sys2Proof/Machine/Injector.lean ====
section
/-! DEFINITION. error_injector: the draws of the RNG port (R171, R172) and INJ.RND (R175), INJ.BST
(R176), INJ.ODD (R177), INJ.UND (R178). A strategy is a run of draws: `injRequest` is the next one
and `injAccept` what its answer does to the working registers (R32). -/

namespace Sys2Proof.Machine

/-- The working copy (R32). -/
def injWork : InjRun → Bits
  | .flips _ work => work
  | .burstStart _ work => work
  | .burst _ _ work => work
  | .oddCount work => work
  | .oddPick _ _ work => work

/-- The next draw the pseudocode reaches, or none when it is done (R175 to R177). -/
def injRequest : InjRun → Option DrawRequest
  | .flips left work => if left = 0 then none else some ⟨.int, 0, work.length - 1⟩
  | .burstStart size work => some ⟨.int, 0, work.length - size⟩
  | .burst _ left _ => if left = 0 then none else some ⟨.bern, 0, 1⟩
  | .oddCount work => some ⟨.int, 0, work.length / 2 - 1⟩
  | .oddPick left chosen work =>
    if left = 0 then none else some ⟨.int, 0, work.length - 1 - chosen.length⟩

/-- The element of rank `r` of `0 .. len-1` minus the chosen indices (R177). -/
def unchosenAtRank (len : Nat) (chosen : List Nat) (r : Nat) : Nat :=
  (((List.range len).filter fun i => !chosen.contains i)[r]?).getD len

/-- What an answer in range does (R175 to R177). -/
def injAccept : InjRun → Nat → InjRun
  | .flips left work, r => .flips (left - 1) (flipBit work r)
  | .burstStart size work, r => .burst r size work
  | .burst pos left work, r =>
    .burst (pos + 1) (left - 1) (if r = 1 then flipBit work pos else work)
  | .oddCount work, r => .oddPick (2 * r + 1) [] work
  | .oddPick left chosen work, r =>
    let idx := unchosenAtRank work.length chosen r
    .oddPick (left - 1) (chosen ++ [idx]) (flipBit work idx)

/-- A correct answer (R171). -/
def inRange (q : DrawRequest) (r : Nat) : Bool := decide (q.lo ≤ r) && decide (r ≤ q.hi)

/-- A draw has been answered: the answer is consumed and the draw is on record (R171; log 14). -/
def recordDraw (q : DrawRequest) (r : Nat) (s : State) : State :=
  { s with draws := s.draws ++ [⟨q, r⟩] }

/-- The command has completed: OBUF is wholly replaced (R23), no command is in progress. -/
def finishInj (run : InjRun) (answers : List Nat) (s : State) : State :=
  { setObuf (injWork run) s with answers := answers, inj := none }

/-- The command waits at its draw; nothing else has been written (R11, R172; log 3). -/
def awaitAnswer (run : InjRun) (s : State) : State := { s with answers := [], inj := some run }

/-- An answer out of range: the RNG fault, nothing written, the answers consumed (R172, R207, R210). -/
def rejectAnswer (answers : List Nat) (s : State) : State :=
  recordFault .rng { s with answers := answers, inj := none }

/-- The draws of a command, one at a time, each answered before the next (R172). -/
def runDraws : List Nat → InjRun → State → State
  | [], run, s =>
    match injRequest run with
    | none => finishInj run [] s
    | some _ => awaitAnswer run s
  | r :: rest, run, s =>
    match injRequest run with
    | none => finishInj run (r :: rest) s
    | some q =>
      if inRange q r then runDraws rest (injAccept run r) (recordDraw q r s)
      else rejectAnswer rest (recordDraw q r s)

/-- An `INJ.*` command from its first draw, with the source's answers. -/
def startInj (run : InjRun) (s : State) : Outcome := .next (runDraws s.answers run s)

/-- INJ.RND (R175). -/
def execInjRnd (count : Imm) (s : State) : Outcome :=
  if 1 ≤ count.toNat ∧ s.ibuf = [] then raise .range s
  else startInj (.flips count.toNat s.ibuf) s

/-- INJ.BST (R176). -/
def execInjBst (size : Imm) (s : State) : Outcome :=
  if s.ibuf.length < size.toNat then raise .range s
  else startInj (.burstStart size.toNat s.ibuf) s

/-- INJ.ODD (R177). -/
def execInjOdd (s : State) : Outcome :=
  if s.ibuf.length < 2 then raise .range s else startInj (.oddCount s.ibuf) s

/-- R178's `pos`, a mathematical integer that may be negative. -/
def maskPosition (len n shift : Nat) : Int := (len : Int) - (n : Int) - (shift : Int)

/-- One pass of R178's loop: pattern bit `j`, dropped when it lands outside the data. -/
def applyMaskBit (data g : Bits) (shift : Nat) (work : Bits) (j : Nat) : Bits :=
  let idx := maskPosition data.length g.length shift + (j : Int)
  if 0 ≤ idx ∧ idx < (data.length : Int) ∧ g[j]? = some true then flipBit work idx.toNat else work

/-- The data under R178's mask. -/
def applyMask (data g : Bits) (shift : Nat) : Bits :=
  (List.range g.length).foldl (applyMaskBit data g shift) data

/-- INJ.UND (R178): no draw, no operand fault. -/
def execInjUnd (p : Poly) (shift : Imm) (s : State) : Outcome :=
  withPoly p s fun g => .next (setObuf (applyMask s.ibuf g shift.toNat) s)

end Sys2Proof.Machine
end

