-- ==== Sys2Proof/Machine/Dispatch.lean ====
section
/-! DEFINITION. One arm per command (R72). -/

namespace Sys2Proof.Machine

def exec (i : Instr) (s : State) : Host.Outcome State Fault Refusal :=
  match i with
  | .nop => Sys2Proof.Machine.execNop s
  | .clr => Sys2Proof.Machine.execClr s
  | .push bits => Sys2Proof.Machine.execPush bits s
  | .mov => Sys2Proof.Machine.execMov s
  | .cksGen => Sys2Proof.Machine.execCksGen s
  | .cksVfy => Sys2Proof.Machine.execCksVfy s
  | .crcDiv poly => Sys2Proof.Machine.execCrcDiv poly s
  | .crcGen poly => Sys2Proof.Machine.execCrcGen poly s
  | .crcVfy poly => Sys2Proof.Machine.execCrcVfy poly s
  | .injRnd count => Sys2Proof.Machine.execInjRnd count s
  | .injBst size => Sys2Proof.Machine.execInjBst size s
  | .injOdd => Sys2Proof.Machine.execInjOdd s
  | .injUnd poly shift => Sys2Proof.Machine.execInjUnd poly shift s

end Sys2Proof.Machine
end

