-- ==== Sys2Proof/Machine/Ports.lean ====
section
/-! DEFINITION. The ports (R56) and what one step does: one transaction of the host, run to
completion (R40). -/

namespace Sys2Proof.Machine

/-- The boundary after a command (R33): the hidden registers settle. -/
def afterCommand : Outcome → Outcome
  | .next s => .next (settle s)
  | .fault r => .fault r
  | .refused r => .refused r

/-- A descriptor accepted with STATUS.ERR = 0: decoded, then run (R212). -/
def runDescriptor (d : Descriptor) (s : State) : Outcome :=
  match decode d with
  | .command i => exec i s
  | .illegal _ => raise .illegal s

/-- The CMD port (R56). In the FAULT state the command is consumed, nothing is decoded and nothing
changes (R211). -/
def acceptCommand (d : Descriptor) (s : State) : Outcome :=
  match s.err with
  | none => afterCommand (runDescriptor d s)
  | some _ => .next s

/-- A read of STATUS, ILEN or OLEN: no side effect on CORE (R54, R56). -/
def replyWord (w : BitVec 32) (s : State) : State := { s with reply := .word w }

/-- A read of ODATA (R55); an unspecified answer uses up one free value. -/
def replyOdata (index : Nat) (s : State) : State :=
  { s with reply := .bit (odataBit index s),
           tick := if index < s.obuf.length then s.tick else s.tick + 1 }

/-- The random source's answers arrive (R232): with no command waiting they are there for the next
draws; a command that waits goes on with them (R172). -/
def attachSource (answers : List Nat) (s : State) : State :=
  match s.inj with
  | none => { s with answers := answers }
  | some run => settle (runDraws answers run s)

/-- A transaction of the host with no command in progress. -/
def transactIdle (e : HostEvent) (s : State) : Outcome :=
  match e with
  | .command d => acceptCommand d s
  | .reset => .next (resetCore s)
  | .readStatus => .next (replyWord (statusWord s) s)
  | .readIlen => .next (replyWord (ilenWord s) s)
  | .readOlen => .next (replyWord (olenWord s) s)
  | .readOdata index => .next (replyOdata index s)
  | .attach answers => .next (attachSource answers s)

/-- A transaction of the host while a command waits for the random source: reset (R230) and the
source's answers (R172) land here, nothing else is defined (R40, R56, 93 U14; log 11). -/
def transactWaiting (e : HostEvent) (s : State) : Outcome :=
  match e with
  | .command _ => .refused .hostTransactionDuringCommand
  | .reset => .next (resetCore s)
  | .readStatus => .refused .hostTransactionDuringCommand
  | .readIlen => .refused .hostTransactionDuringCommand
  | .readOlen => .refused .hostTransactionDuringCommand
  | .readOdata _ => .refused .hostTransactionDuringCommand
  | .attach answers => .next (attachSource answers s)

/-- The host does nothing: CORE is idle (R220), or waits for ever (R172, 93 U12; log 3). -/
def noTransaction (s : State) : Outcome :=
  match s.inj with
  | none => .next s
  | some _ => .fault .randomSourceSilent

/-- One step: the host's next transaction. -/
def transact (s : State) : Outcome :=
  match s.host with
  | [] => noTransaction s
  | e :: rest =>
    match s.inj with
    | none => transactIdle e { s with host := rest }
    | some _ => transactWaiting e { s with host := rest }

/-- The descriptor with number `w` on the CMD port, ahead of everything else the host will do; a
command waiting for the random source is put aside, so that the port is free (log 1). -/
def placeDescriptor (nbits w : Nat) (s : State) : State :=
  { s with host := .command (BitVec.ofNat 128 (w % 2 ^ nbits)) :: s.host, inj := none }

/-- Commands issued one after another through the CMD port as descriptors, each complete before the
next (R40): a command script (R12). A command that waits for the random source holds up the rest. -/
def issueAll : List Instr → State → Outcome
  | [], s => .next s
  | i :: rest, s =>
    match s.inj with
    | some _ => .refused .hostTransactionDuringCommand
    | none =>
      match acceptCommand (encode i) s with
      | .next t => issueAll rest t
      | .fault r => .fault r
      | .refused r => .refused r

end Sys2Proof.Machine
end

