-- ==== Sys2Proof/Machine/Step.lean ====
section
/-! DEFINITION. The step, and where a descriptor stands that the next step runs. -/

namespace Sys2Proof.Machine

def step (s : State) : Host.Outcome State Fault Refusal := transact s

def State.withFetchWord (s : State) (nbits w : Nat) : State := placeDescriptor nbits w s

end Sys2Proof.Machine
end

