-- ==== Sys2Proof/Machine/Assembler.lean ====
section
/-! DEFINITION. The host's textual spelling of a command (R85, R86), the pseudo-command LOAD (R87) and
the command script each of CN's operations stands for (R88). What separates the parts of a line (log 17)
and what LOAD is for a string longer than MAXLEN (log 21) are the model's choice. -/

namespace Sys2Proof.Machine

/-- The mnemonics (R72, R85). -/
def mnemonicTable : List (String × Opcode) :=
  [("NOP", .nop), ("CLR", .clr), ("PUSH", .push), ("MOV", .mov),
   ("CKS.GEN", .cksGen), ("CKS.VFY", .cksVfy),
   ("CRC.DIV", .crcDiv), ("CRC.GEN", .crcGen), ("CRC.VFY", .crcVfy),
   ("INJ.RND", .injRnd), ("INJ.BST", .injBst), ("INJ.ODD", .injOdd), ("INJ.UND", .injUnd)]

def opcodeNamed (name : List Char) : Option Opcode :=
  (mnemonicTable.find? fun row => row.1.toList == name).map Prod.snd

/-- The four names, spelled exactly so (R85). -/
def polyTable : List (String × Poly) :=
  [("CRC-8", .crc8), ("CRC-10", .crc10), ("CRC-16", .crc16), ("CRC-32", .crc32)]

def polyNamed (name : List Char) : Option Poly :=
  (polyTable.find? fun row => row.1.toList == name).map Prod.snd

/-- The parts of a line: a bare word, a quoted string, the comma before a shift (R85). -/
inductive Token where
  | word (chars : List Char)
  | quoted (chars : List Char)
  | comma
deriving DecidableEq, Repr

/-- Where in a line the reader stands: between parts, in a word, in a quoted string. -/
inductive Reading where
  | between
  | inWord (chars : List Char)
  | inQuotes (chars : List Char)
deriving DecidableEq, Repr

/-- The word read so far, if any, as a part of the line. -/
def wordSoFar : Reading → List Token
  | .between => []
  | .inWord chars => [.word chars]
  | .inQuotes _ => []

/-- One more character of a word. -/
def growWord : Reading → Char → Reading
  | .between, c => .inWord [c]
  | .inWord chars, c => .inWord (chars ++ [c])
  | .inQuotes chars, _ => .inQuotes chars

/-- The parts of a line up to its end or its comment; nothing when a quoted string is not closed. A
quote also ends the word before it, and a word may follow a closing quote directly, with no blank
between them: the model's choice, R85 is silent (DESIGN CHOICE, log 17). -/
def tokenize : Reading → List Char → Option (List Token)
  | .inQuotes _, [] => none
  | .inQuotes chars, c :: rest =>
    if c = '"' then (tokenize .between rest).map (Token.quoted chars :: ·)
    else tokenize (.inQuotes (chars ++ [c])) rest
  | r, [] => some (wordSoFar r)
  | r, c :: rest =>
    if c = ';' then some (wordSoFar r)
    else if c = ' ' ∨ c = '\t' then (tokenize .between rest).map (wordSoFar r ++ ·)
    else if c = ',' then (tokenize .between rest).map (wordSoFar r ++ Token.comma :: ·)
    else if c = '"' then (tokenize (.inQuotes []) rest).map (wordSoFar r ++ ·)
    else tokenize (growWord r c) rest

/-- A decimal natural below 2^32 (R85). -/
def immOfChars (cs : List Char) : Option Imm :=
  if cs ≠ [] ∧ cs.all (fun c => '0' ≤ c && c ≤ '9') then
    let v := cs.foldl (fun acc c => 10 * acc + (c.toNat - '0'.toNat)) 0
    if v < 2 ^ 32 then some (BitVec.ofNat 32 v) else none
  else none

/-- `<poly>` (R85): one of the four names, or a quoted literal of 1 to 64 characters. -/
def polyOfToken : Token → Option Poly
  | .word chars => polyNamed chars
  | .quoted chars =>
    match bitsOfChars chars with
    | some bits =>
      if 1 ≤ bits.length ∧ bits.length ≤ Config.literalMax then some (.literal bits) else none
    | none => none
  | .comma => none

/-- The operands of each mnemonic (R85), with R86's defaults: count 1, burst size 1, shift 0. -/
def assembleOperands : Opcode → List Token → Option Instr
  | .nop, [] => some .nop
  | .clr, [] => some .clr
  | .push, [.quoted chars] =>
    match bitsOfChars chars with
    | some bits => if bits.length ≤ Config.literalMax then some (.push bits) else none
    | none => none
  | .mov, [] => some .mov
  | .cksGen, [] => some .cksGen
  | .cksVfy, [] => some .cksVfy
  | .crcDiv, [t] => (polyOfToken t).map .crcDiv
  | .crcGen, [t] => (polyOfToken t).map .crcGen
  | .crcVfy, [t] => (polyOfToken t).map .crcVfy
  | .injRnd, [] => some (.injRnd 1)
  | .injRnd, [.word chars] => (immOfChars chars).map .injRnd
  | .injBst, [] => some (.injBst 1)
  | .injBst, [.word chars] => (immOfChars chars).map .injBst
  | .injOdd, [] => some .injOdd
  | .injUnd, [t] => (polyOfToken t).map fun p => .injUnd p 0
  | .injUnd, [t, .comma, .word chars] =>
    match polyOfToken t, immOfChars chars with
    | some p, some shift => some (.injUnd p shift)
    | _, _ => none
  | _, _ => none

/-- The pieces of 64 bits LOAD pushes, the last with the bits that remain (R87). -/
def loadPieces (bits : Bits) : List Bits :=
  (List.range ((bits.length + 63) / 64)).map fun i => slice bits (64 * i) (64 * i + 64)

/-- `LOAD` (R87): CLR, then one PUSH per piece. R87 gives this for a string of at most MAXLEN bits;
that a longer one expands likewise, and CORE raises CAP at the first PUSH that does not fit, is the
model's choice (DESIGN CHOICE, log 21). -/
def load (bits : Bits) : List Instr := .clr :: (loadPieces bits).map .push

/-- The commands of a line: none for an empty line or a comment, LOAD's expansion (R87), or one
command (R85); nothing when the line is not of the syntax. -/
def assembleTokens : List Token → Option (List Instr)
  | [] => some []
  | .word name :: operands =>
    if name = "LOAD".toList then
      match operands with
      | [.quoted chars] => (bitsOfChars chars).map load
      | _ => none
    else
      match opcodeNamed name with
      | some o => (assembleOperands o operands).map fun i => [i]
      | none => none
  | _ :: _ => none

/-- A line of a command script (R85). -/
def assembleLine (line : String) : Option (List Instr) :=
  match tokenize .between line.toList with
  | some tokens => assembleTokens tokens
  | none => none

/-- A command script, one command per line (R85). -/
def assemble (lines : List String) : Option (List Instr) :=
  (lines.mapM assembleLine).map List.flatten

/-- CN's operations (R88). -/
inductive CnCall where
  | checksumGenerate (bits : Bits)
  | checksumVerify (bits : Bits)
  | crcGenerate (bits : Bits) (poly : Poly)
  | crcVerify (bits : Bits) (poly : Poly)
  | xorDivide (dividend : Bits) (divisor : Poly)
  | injectRandom (bits : Bits) (count : Imm)
  | injectBurst (bits : Bits) (size : Imm)
  | injectOdd (bits : Bits)
  | injectUndetectable (bits : Bits) (poly : Poly) (shift : Imm)
deriving DecidableEq, Repr

/-- The argument a call's script loads first (R88). -/
def argumentOfCall : CnCall → Bits
  | .checksumGenerate bits => bits
  | .checksumVerify bits => bits
  | .crcGenerate bits _ => bits
  | .crcVerify bits _ => bits
  | .xorDivide dividend _ => dividend
  | .injectRandom bits _ => bits
  | .injectBurst bits _ => bits
  | .injectOdd bits => bits
  | .injectUndetectable bits _ _ => bits

/-- The one command after the load (R88). -/
def commandOfCall : CnCall → Instr
  | .checksumGenerate _ => .cksGen
  | .checksumVerify _ => .cksVfy
  | .crcGenerate _ p => .crcGen p
  | .crcVerify _ p => .crcVfy p
  | .xorDivide _ g => .crcDiv g
  | .injectRandom _ count => .injRnd count
  | .injectBurst _ size => .injBst size
  | .injectOdd _ => .injOdd
  | .injectUndetectable _ p shift => .injUnd p shift

/-- The script a call stands for (R88). A call whose literal polynomial is longer than 64 bits has
none: such a literal cannot be encoded (R75, 93 U17), so the call is refused. -/
def scriptOfCall (c : CnCall) : Option (List Instr) :=
  if (commandOfCall c).wellFormed then some (load (argumentOfCall c) ++ [commandOfCall c]) else none

end Sys2Proof.Machine
end

