-- ==== Sys2Proof/Machine/Adapter.lean ====
section
/-! DEFINITION. The host's wire-message adapter (R90 to R95, R208): a line of text becomes commands,
one of the two named errors, or nothing. CORE sees only the commands; the adapter changes no state of
CORE. What the spec leaves open of the text is refused or fixed by log 18; a codeword
longer than MAXLEN is loaded like any other and CORE raises CAP, the model's choice (log 21). -/

namespace Sys2Proof.Machine

/-- What the adapter makes of one message. -/
inductive MessageResult where
  /-- The commands it issues (R95). -/
  | commands (script : List Instr)
  /-- `FormatError` (R91). -/
  | formatError
  /-- `UnknownMethodError` (R92). -/
  | unknownMethodError
  /-- A message R95 gives no meaning: no command is issued (93 U8). -/
  | refused
deriving DecidableEq, Repr

/-- The fields of a text, cut at every separator; one more field than separators. -/
def splitAtChar (sep : Char) : List Char → List (List Char)
  | [] => [[]]
  | c :: rest =>
    let fields := splitAtChar sep rest
    if c = sep then [] :: fields
    else
      match fields with
      | [] => [[c]]
      | f :: more => (c :: f) :: more

/-- The `error` field is 0 or 1 (R90); CORE never sees it (R94). -/
def isGroundTruth (field : List Char) : Bool := field == ['0'] || field == ['1']

/-- The polynomial field of a `crc` message (R93): a name, else a literal, of at most 64 characters
(R95). An empty literal, or one with a leading 0, is text like any other; CORE raises POLY on it. -/
def polyOfField (field : List Char) : Option Poly :=
  match polyNamed field with
  | some p => some p
  | none =>
    match bitsOfChars field with
    | some bits => if bits.length ≤ Config.literalMax then some (.literal bits) else none
    | none => none

/-- A `checksum` message with four fields (R95). -/
def checksumMessage (polynomial error codeword : List Char) : MessageResult :=
  match bitsOfChars codeword with
  | some c =>
    if polynomial = [] ∧ isGroundTruth error = true then .commands (load c ++ [.cksVfy])
    else .refused
  | none => .refused

/-- A `crc` message with four fields (R95). -/
def crcMessage (polynomial error codeword : List Char) : MessageResult :=
  match bitsOfChars codeword, polyOfField polynomial with
  | some c, some p =>
    if isGroundTruth error = true then .commands (load c ++ [.crcVfy p]) else .refused
  | _, _ => .refused

/-- One message without its newline (R90): the field count is judged first (R92). An empty line is a
message too, of one empty field, and so FormatError: the model's choice, 91 N9 leaves open what it is
(DESIGN CHOICE, log 18). -/
def readMessage (line : List Char) : MessageResult :=
  match splitAtChar ':' line with
  | [method, polynomial, error, codeword] =>
    if method = "checksum".toList then checksumMessage polynomial error codeword
    else if method = "crc".toList then crcMessage polynomial error codeword
    else .unknownMethodError
  | _ => .formatError

/-- A stream of newline-ended messages, each judged for itself (R90, R91, R92); text after the last
newline is no message yet (log 18). -/
def readStream (text : List Char) : List MessageResult :=
  (splitAtChar '\n' text).dropLast.map readMessage

/-- The transactions a message's commands are on the CMD port; an error issues none. -/
def transactionsOf : MessageResult → List HostEvent
  | .commands script => script.map fun i => .command (encode i)
  | .formatError => []
  | .unknownMethodError => []
  | .refused => []

end Sys2Proof.Machine
end

