-- ==== Sys2Proof/Safety.lean ====
section
/-! DEFINITION. What claims about a run are stated in: the states a run can be in (the invariant),
a state that accepts a command, and the part of a state the host can observe. -/

namespace Sys2Proof.Machine

/-- R7's bounds on MAXLEN. -/
def maxLenOk (m : Nat) : Prop := Config.maxLenLeast ≤ m ∧ m ≤ Config.maxLenGreatest

/-- The working registers of an `INJ.*` command that waits at a draw, over data of `len` bits (R175
to R177): the working copy has the data's length, the counters and indices stay inside it, and for
INJ.ODD the indices are distinct and their number in the end odd and below `len`. -/
def runOk (len : Nat) : InjRun → Prop
  | .flips left work => work.length = len ∧ 1 ≤ left ∧ 1 ≤ len
  | .burstStart size work => work.length = len ∧ size ≤ len
  | .burst pos left work => work.length = len ∧ 1 ≤ left ∧ pos + left ≤ len
  | .oddCount work => work.length = len ∧ 2 ≤ len
  | .oddPick left chosen work =>
    work.length = len ∧ 1 ≤ left ∧ chosen.Nodup ∧ (∀ i ∈ chosen, i < len) ∧
      left + chosen.length < len ∧ (left + chosen.length) % 2 = 1

/-- A command in progress waits with STATUS.ERR = 0 (R211) and no answer at hand (R172). -/
def waitingOk (s : State) : Prop :=
  ∀ run, s.inj = some run → runOk s.ibuf.length run ∧ s.err = none ∧ s.answers = []

/-- A request CORE may issue (R171). -/
def requestOk (q : DrawRequest) : Prop := q.lo ≤ q.hi ∧ q.hi < 2 ^ 32

/-- The invariant: MAXLEN in R7's bounds, both buffers within it (R61), the working registers of a
waiting command in order, every request that was answered one R171 allows. -/
def Inv (s : State) : Prop :=
  maxLenOk s.maxLen ∧ s.ibuf.length ≤ s.maxLen ∧ s.obuf.length ≤ s.maxLen ∧ waitingOk s ∧
    ∀ d ∈ s.draws, requestOk d.request

/-- CORE accepts and runs the next descriptor: no fault recorded, no command in progress (R40, R211). -/
def Ready (s : State) : Prop := s.err = none ∧ s.inj = none

/-- Two states the host cannot tell apart now or later: they differ at most in the hidden registers
ACC, SR and G (R13, R33). -/
def SameButHidden (s t : State) : Prop :=
  { s with acc := 0, sr := 0, gLatch := 0 } = { t with acc := 0, sr := 0, gLatch := 0 }

/-- The number of positions at which two sequences of one length differ. -/
def differences (a b : Bits) : Nat := (xorBits a b).count true

/-- The blocks of `size` bits CKS.GEN (16) or CKS.VFY (20) needs for `len` bits: `ceil(len / size)`. -/
def blocks (len size : Nat) : Nat := (len + size - 1) / size

/-- Block `i` of a sequence padded on the left with zeros to whole blocks (R100, R101). -/
def block (s : Bits) (size i : Nat) : Bits :=
  slice (zeros (size * blocks s.length size - s.length) ++ s) (size * i) (size * i + size)

/-- The value of the 4-bit word `k` of a block (R51, R102), each bit with its weight. -/
def wordValue (b : Bits) (k : Nat) : Nat :=
  8 * (b.getD (4 * k) false).toNat + 4 * (b.getD (4 * k + 1) false).toNat +
    2 * (b.getD (4 * k + 2) false).toNat + (b.getD (4 * k + 3) false).toNat

/-- The end-around carry in closed form for 4-bit words (R105). -/
def carryFold (sum : Nat) : Nat := if sum = 0 then 0 else 1 + (sum - 1) % 15

end Sys2Proof.Machine
end

