-- ==== Sys2Proof/Certificates/Slice0/Obligations.lean ====
section
/-! DEFINITION. The statements for the provers, from the numbered rules of spec/. -/

open Sys2Proof Sys2Proof.Machine

/-! ## Encoding -/

/-- Descriptors of T350, written out from R71 to R77, decode to the commands they stand for. -/
def Obligations.SpecDescriptorsDecode : Prop :=
  decode 0x00000000000000000000000000000000 = .command .nop ∧
  decode 0x02004000000000000000000000000003 = .command (.push [false, false, true, true]) ∧
  decode 0x10000000000000000000000000000000 = .command .cksGen ∧
  decode 0x2110400000000000000000000000000B =
    .command (.crcGen (.literal [true, false, true, true])) ∧
  decode 0x22200000000000000000000000000000 = .command (.crcVfy .crc8) ∧
  decode 0x31000000000000030000000000000000 = .command (.injBst 3) ∧
  decode 0x3310400000000002000000000000000B =
    .command (.injUnd (.literal [true, false, true, true]) 2)

/-- Every well-formed command, every operand at every value, is read back from its descriptor. -/
def Obligations.DecodeOfEncodeIsTheCommand : Prop :=
  ∀ i : Instr, i.wellFormed = true → decode (encode i) = .command i

/-- A descriptor that decodes is the one descriptor of its command, which is well-formed: no bit of
it is left out of account. -/
def Obligations.EncodeOfDecodeIsTheDescriptor : Prop :=
  ∀ (d : Descriptor) (i : Instr), decode d = .command i → i.wellFormed = true ∧ encode i = d

/-- R78: a descriptor is illegal exactly under conditions (a) to (g), and then it raises ILLEGAL and
changes no state but STATUS.ERR. -/
def Obligations.IllegalDescriptorsAreThoseOfTheRule : Prop :=
  ∀ d : Descriptor,
    let f := fieldsOf d
    let poly := f.op = 0x20 ∨ f.op = 0x21 ∨ f.op = 0x22 ∨ f.op = 0x33
    let literal := f.op = 0x02 ∨ (poly ∧ f.psel = 1)
    let illegal :=
      (f.op ∉ [0x00, 0x01, 0x02, 0x03, 0x10, 0x11, 0x20, 0x21, 0x22, 0x30, 0x31, 0x32, 0x33]) ∨
      f.zero ≠ 0 ∨
      ((¬poly ∧ f.psel ≠ 0) ∨ (¬poly ∧ f.op ≠ 0x02 ∧ (f.n ≠ 0 ∨ f.data ≠ 0)) ∨
        (f.op ≠ 0x30 ∧ f.op ≠ 0x31 ∧ f.op ≠ 0x33 ∧ f.imm ≠ 0)) ∨
      (poly ∧ (f.psel = 0 ∨ 6 ≤ f.psel.toNat)) ∨
      (2 ≤ f.psel.toNat ∧ f.psel.toNat ≤ 5 ∧ (f.n ≠ 0 ∨ f.data ≠ 0)) ∨
      (literal ∧ 64 < f.n.toNat) ∨
      (literal ∧ ∃ j, f.n.toNat ≤ j ∧ j < 64 ∧ f.data.getLsbD j = true)
    ((∃ why, decode d = .illegal why) ↔ illegal) ∧
      (illegal → ∀ s : State, Ready s →
        runDescriptor d s = .next { s with err := some .illegal })

/-- R75 and R77: bit `j` of a literal, of a PUSH or of a polynomial, is DATA[N-1-j]. -/
def Obligations.LiteralBitsComeFromData : Prop :=
  ∀ (d : Descriptor) (i : Instr) (bits : Bits), decode d = .command i →
    (i = .push bits ∨ i = .crcDiv (.literal bits) ∨ i = .crcGen (.literal bits) ∨
      i = .crcVfy (.literal bits) ∨ ∃ shift, i = .injUnd (.literal bits) shift) →
    bits.length = (fieldsOf d).n.toNat ∧
      ∀ j, j < bits.length →
        bits[j]? = some ((fieldsOf d).data.getLsbD ((fieldsOf d).n.toNat - 1 - j))

/-- Lines of R85's syntax, with R86's defaults, and the descriptors T350 gives for them. What
separates the parts of a line is the model's choice (log 17). -/
def Obligations.AssembledLinesHaveTheirDescriptors : Prop :=
  (assembleLine "PUSH \"0011\" ; comment").map (List.map encode) =
    some [0x02004000000000000000000000000003] ∧
  (assembleLine "CRC.GEN CRC-8").map (List.map encode) =
    some [0x21200000000000000000000000000000] ∧
  (assembleLine "INJ.RND").map (List.map encode) = some [0x30000000000000010000000000000000] ∧
  (assembleLine "INJ.BST").map (List.map encode) = some [0x31000000000000010000000000000000] ∧
  (assembleLine "INJ.UND \"1011\"").map (List.map encode) =
    some [0x3310400000000000000000000000000B] ∧
  (assembleLine "INJ.UND CRC-8, 7").map (List.map encode) =
    some [0x33200000000000070000000000000000]

/-! ## The machine: steps, reset, the FAULT state, the invariant -/

/-- A step runs the decoded command: with no fault recorded and no command in progress, a descriptor
on CMD that decodes to `i` makes the step `exec i`, past the consumed transaction, with the boundary
after it (`afterCommand`: the hidden registers settle, R33). The list of transactions (log 1) and
the free values the hidden registers settle to (log 7) are the model's choice. -/
def Obligations.StepRunsTheDecodedCommand : Prop :=
  ∀ (s : State) (d : Descriptor) (rest : List HostEvent) (i : Instr),
    Ready s → s.host = .command d :: rest → decode d = .command i →
      step s = afterCommand (exec i { s with host := rest })

/-- R45, R231: after the reset event, from any state (in the FAULT state and during a command too),
CORE's registers hold R45's values and CORE is ready; the random source and MAXLEN are untouched.
State.resetWith is such a state. The model's choice: transactions are a list (log 1),
reset lands during a command at a waiting point (log 4). -/
def Obligations.ResetPutsEveryRegisterAtItsValue : Prop :=
  (∀ (s : State) (rest : List HostEvent), s.host = .reset :: rest →
    ∃ t, step s = .next t ∧ t.ibuf = [] ∧ t.obuf = [] ∧ ilenWord t = 0 ∧ olenWord t = 0 ∧
      statusWord t = 0 ∧ t.valid = false ∧ Ready t ∧ t.answers = s.answers ∧ t.draws = s.draws ∧
      t.maxLen = s.maxLen ∧ t.host = rest) ∧
  (∀ m, (State.resetWith m).ibuf = [] ∧ (State.resetWith m).obuf = [] ∧
    ilenWord (State.resetWith m) = 0 ∧ olenWord (State.resetWith m) = 0 ∧
    statusWord (State.resetWith m) = 0 ∧ (State.resetWith m).valid = false ∧
    Ready (State.resetWith m))

/-- The invariant holds right after reset, under every MAXLEN R7 admits. State.reset's own MAXLEN is
the model's choice (log 5). -/
def Obligations.ResetMeetsTheInvariant : Prop :=
  (∀ m, maxLenOk m → Inv (State.resetWith m)) ∧ Inv State.reset

/-- Every step keeps the invariant: both buffers stay within MAXLEN (R61), a command that waits
keeps its working registers in order, and no request R171 forbids is ever issued. The record of
draws and the waiting command are held as the model chose (logs 3, 14). -/
def Obligations.EveryStepKeepsTheInvariant : Prop :=
  ∀ s t : State, Inv s → step s = .next t → Inv t

/-- R211: the FAULT state. Descriptors are consumed and ignored, port reads work as usual, the code
of the first fault stays, and only reset leaves. (No command is in progress in the FAULT state: the
invariant says so.) The list of transactions (log 1) and the reply field (log 10) are the model's
choice. -/
def Obligations.FaultStateIgnoresAllButReset : Prop :=
  ∀ (s : State) (f : CoreFault), s.err = some f → s.inj = none →
    (∀ d rest, s.host = .command d :: rest → step s = .next { s with host := rest }) ∧
    (∀ rest, s.host = .readStatus :: rest →
      step s = .next { s with host := rest, reply := .word (statusWord s) }) ∧
    (∀ rest, s.host = .readIlen :: rest →
      step s = .next { s with host := rest, reply := .word (ilenWord s) }) ∧
    (∀ rest, s.host = .readOlen :: rest →
      step s = .next { s with host := rest, reply := .word (olenWord s) }) ∧
    (∀ rest i b, s.host = .readOdata i :: rest → s.obuf[i]? = some b →
      step s = .next { s with host := rest, reply := .bit b }) ∧
    (∀ t, step s = .next t → (∀ rest, s.host ≠ .reset :: rest) → t.err = some f) ∧
    (∀ rest, s.host = .reset :: rest → ∃ t, step s = .next t ∧ t.err = none)

/-- R210: when a descriptor raises a fault, nothing changes but STATUS.ERR; the draws already made
have been consumed from the source and are not returned. The list of answers (log 2) and the record
of draws (log 14) are the model's choice. -/
def Obligations.FaultChangesOnlyErr : Prop :=
  ∀ (d : Descriptor) (s t : State) (f : CoreFault),
    Ready s → runDescriptor d s = .next t → t.err = some f →
      ∃ used : List Draw,
        s.answers = used.map Draw.answer ++ t.answers ∧
        t = { s with err := some f, answers := t.answers, draws := s.draws ++ used }

/-- R201: no command of this spec can raise OVERFLOW. The spec derives this itself, from its bound
on a chunk's sum. -/
def Obligations.OverflowIsNeverRaised : Prop :=
  ∀ (d : Descriptor) (s t : State),
    Ready s → runDescriptor d s = .next t → t.err ≠ some .overflow

/-- R21, R23, R26: which commands write which register, over all commands; nothing outside CORE but
the random source's answers and the record of draws is ever touched. How these and a waiting command
stand in State is the model's choice (logs 2, 3, 14). -/
def Obligations.EachRegisterIsWrittenOnlyByItsCommands : Prop :=
  ∀ (i : Instr) (s t : State), exec i s = .next t →
    (t.ibuf ≠ s.ibuf → i = .clr ∨ i = .mov ∨ ∃ b, i = .push b) ∧
    (t.obuf ≠ s.obuf → i = .cksGen ∨ (∃ p, i = .crcDiv p) ∨ (∃ p, i = .crcGen p) ∨
      (∃ c, i = .injRnd c) ∨ (∃ b, i = .injBst b) ∨ i = .injOdd ∨ ∃ p k, i = .injUnd p k) ∧
    (t.valid ≠ s.valid → i = .cksVfy ∨ ∃ p, i = .crcVfy p) ∧
    (t.acc ≠ s.acc → i = .cksGen ∨ i = .cksVfy) ∧
    (t.sr ≠ s.sr ∨ t.gLatch ≠ s.gLatch →
      (∃ p, i = .crcDiv p) ∨ (∃ p, i = .crcGen p) ∨ ∃ p, i = .crcVfy p) ∧
    (t.answers ≠ s.answers ∨ t.draws ≠ s.draws ∨ t.inj ≠ s.inj →
      (∃ c, i = .injRnd c) ∨ (∃ b, i = .injBst b) ∨ i = .injOdd) ∧
    t.maxLen = s.maxLen ∧ t.host = s.host ∧ t.reply = s.reply ∧ t.tick = s.tick

/-- R234: a command always answers a next state, and so does every step with no command in progress.
An INJ command short of answers has a next state in which it waits: the model's choice (log 3). -/
def Obligations.EveryCommandAnswersANextState : Prop :=
  (∀ (i : Instr) (s : State), ∃ t, exec i s = .next t) ∧
  (∀ s : State, s.inj = none → ∃ t, step s = .next t)

/-- R13, R33: no rule reads the hidden registers ACC, SR, G across a command boundary. Two states
that differ at most in them step alike, to states that differ at most in them. -/
def Obligations.HiddenRegistersAreNeverRead : Prop :=
  ∀ s s' : State, SameButHidden s s' →
    (∀ t, step s = .next t → ∃ t', step s' = .next t' ∧ SameButHidden t t') ∧
    (∀ r, step s = .fault r → step s' = .fault r) ∧
    (∀ r, step s = .refused r → step s' = .refused r)

/-! ## STATUS and the ports -/

/-- R25, R200: the bits of STATUS, its value after reset, and the code of each fault. -/
def Obligations.StatusWordHasItsFields : Prop :=
  (∀ s : State, (statusWord s).getLsbD 0 = s.valid ∧ (statusWord s).extractLsb' 1 3 = 0 ∧
    (statusWord s).extractLsb' 4 4 = errField s.err ∧ (statusWord s).extractLsb' 8 24 = 0) ∧
  statusWord State.reset = 0 ∧
  errField none = 0 ∧ errField (some .overflow) = 1 ∧ errField (some .illegal) = 2 ∧
  errField (some .poly) = 3 ∧ errField (some .range) = 4 ∧ errField (some .short) = 5 ∧
  errField (some .cap) = 6 ∧ errField (some .rng) = 7

/-- R24: ILEN and OLEN are the buffers' lengths, in every state a run can be in. -/
def Obligations.LengthRegistersAreTheLengths : Prop :=
  ∀ s : State, Inv s →
    (ilenWord s).toNat = s.ibuf.length ∧ (olenWord s).toNat = s.obuf.length

/-- R54, R55, R56: with no command in progress a port read answers and has no effect on CORE; ODATA
answers `OBUF[i]` below OLEN and some bit elsewhere (a free value: log 9). The list of transactions
(log 1) and the reply field (log 10) are the model's choice. -/
def Obligations.PortReadsAnswerWithoutEffect : Prop :=
  ∀ (s : State) (rest : List HostEvent), s.inj = none →
    (s.host = .readStatus :: rest →
      step s = .next { s with host := rest, reply := .word (statusWord s) }) ∧
    (s.host = .readIlen :: rest →
      step s = .next { s with host := rest, reply := .word (ilenWord s) }) ∧
    (s.host = .readOlen :: rest →
      step s = .next { s with host := rest, reply := .word (olenWord s) }) ∧
    (∀ i b, s.host = .readOdata i :: rest → s.obuf[i]? = some b →
      step s = .next { s with host := rest, reply := .bit b }) ∧
    (∀ i, s.host = .readOdata i :: rest → s.obuf.length ≤ i →
      ∃ b, step s = .next { s with host := rest, reply := .bit b, tick := s.tick + 1 })

/-! ## Buffer commands -/

/-- R110, R111, R113: NOP leaves the state as it was, CLR empties IBUF, MOV copies OBUF; nothing else
changes. -/
def Obligations.NopClrMovHaveTheirEffect : Prop :=
  ∀ s : State, exec .nop s = .next s ∧ exec .clr s = .next { s with ibuf := [] } ∧
    exec .mov s = .next { s with ibuf := s.obuf }

/-- R112: PUSH appends when the sequence fits, and raises CAP, IBUF unchanged, when it does not. -/
def Obligations.PushAppendsOrRaisesCap : Prop :=
  ∀ (bits : Bits) (s : State),
    (s.ibuf.length + bits.length ≤ s.maxLen →
      exec (.push bits) s = .next { s with ibuf := s.ibuf ++ bits }) ∧
    (s.maxLen < s.ibuf.length + bits.length → s.err = none →
      exec (.push bits) s = .next { s with err := some .cap })

/-- R87: for a string of at most MAXLEN bits LOAD is CLR and `ceil(L / 64)` PUSH commands, each with
the next 64 bits, the last with those that remain; after it IBUF equals the string, and no other
register has changed. -/
def Obligations.LoadLeavesTheString : Prop :=
  ∀ (bits : Bits) (s : State), Ready s → bits.length ≤ s.maxLen →
    (∃ pieces : List Bits, load bits = .clr :: pieces.map .push ∧ pieces.flatten = bits ∧
      pieces.length = (bits.length + 63) / 64 ∧
      ∀ (k : Nat) (piece : Bits), pieces[k]? = some piece →
        piece.length = min 64 (bits.length - 64 * k)) ∧
    ∃ t, issueAll (load bits) s = .next t ∧ t.ibuf = bits ∧ t.obuf = s.obuf ∧
      t.valid = s.valid ∧ Ready t ∧ t.maxLen = s.maxLen ∧ t.answers = s.answers ∧
      t.draws = s.draws ∧ t.host = s.host ∧ t.reply = s.reply

/-- LOAD of a string longer than MAXLEN. That it has an expansion at all, the one R87 gives up to
MAXLEN, is the model's choice (log 21): R87 is silent there. CORE's part is R112's: the first PUSH
that does not fit raises CAP, IBUF holds the pieces before it, the rest of the script is ignored. -/
def Obligations.LoadOfTooLongAStringRaisesCap : Prop :=
  ∀ (bits : Bits) (s : State), Ready s → s.maxLen < bits.length →
    ∃ t, issueAll (load bits) s = .next t ∧ t.err = some .cap ∧
      t.ibuf = bits.take (64 * (s.maxLen / 64)) ∧ t.obuf = s.obuf ∧ t.valid = s.valid ∧
      t.inj = none ∧ t.maxLen = s.maxLen ∧ t.answers = s.answers ∧ t.draws = s.draws ∧
      t.host = s.host ∧ t.reply = s.reply

/-- R91, R92, R95: the adapter. A wrong field count is FormatError; with four fields, a method that
is neither checksum nor crc is UnknownMethodError, a well-formed checksum message is LOAD and
CKS.VFY, a well-formed crc message LOAD and CRC.VFY, and a message with any of the four faults R95
names is refused. Only a message with commands issues any, as descriptors in order. That spelling is
exact and an empty line a message of one field (log 18), that a codeword longer than MAXLEN is loaded
too (log 21) and that descriptors are transactions of a list (log 1) are the model's choice. -/
def Obligations.AdapterReadsMessages : Prop :=
  (∀ line : List Char, readMessage line = .formatError ↔ line.count ':' ≠ 3) ∧
  (∀ method polynomial error codeword : List Char,
    ':' ∉ method → ':' ∉ polynomial → ':' ∉ error → ':' ∉ codeword →
    let line := method ++ ':' :: (polynomial ++ ':' :: (error ++ ':' :: codeword))
    let isBit (c : Char) : Prop := c = '0' ∨ c = '1'
    (method ≠ "checksum".toList → method ≠ "crc".toList → readMessage line = .unknownMethodError) ∧
    (∀ c, bitsOfChars codeword = some c → (error = ['0'] ∨ error = ['1']) →
      (method = "checksum".toList → polynomial = [] →
        readMessage line = .commands (load c ++ [.cksVfy])) ∧
      (∀ p, method = "crc".toList → polyNamed polynomial = some p →
        readMessage line = .commands (load c ++ [.crcVfy p])) ∧
      (∀ b, method = "crc".toList → bitsOfChars polynomial = some b → b.length ≤ 64 →
        readMessage line = .commands (load c ++ [.crcVfy (.literal b)]))) ∧
    ((method = "checksum".toList ∨ method = "crc".toList) →
      ((∃ c ∈ codeword, ¬isBit c) ∨ (error ≠ ['0'] ∧ error ≠ ['1'])) →
      readMessage line = .refused) ∧
    (method = "checksum".toList → polynomial ≠ [] → readMessage line = .refused) ∧
    (method = "crc".toList → polynomial ∉ ["CRC-8".toList, "CRC-10".toList, "CRC-16".toList,
        "CRC-32".toList] →
      ((∃ c ∈ polynomial, ¬isBit c) ∨ 64 < polynomial.length) → readMessage line = .refused)) ∧
  (∀ line : List Char,
    (∀ script, readMessage line = .commands script →
      transactionsOf (readMessage line) = script.map fun i => .command (encode i)) ∧
    ((∀ script, readMessage line ≠ .commands script) → transactionsOf (readMessage line) = []))

/-! ## Primitives -/

/-- R100, R101: padLeft prepends the least number of zeros that makes whole blocks; chunk cuts a
whole number of slices, in order. -/
def Obligations.PadLeftIsMinimalAndChunkIsExact : Prop :=
  (∀ (s : Bits) (b : Nat), 1 ≤ b →
    ∃ r, padLeft s b = List.replicate r false ++ s ∧ b ∣ r + s.length ∧ r < b ∧
      ∀ r', b ∣ r' + s.length → r ≤ r') ∧
  (∀ (s : Bits) (k : Nat), 1 ≤ k → k ∣ s.length →
    (chunk s k).flatten = s ∧ (chunk s k).length = s.length / k ∧ ∀ c ∈ chunk s k, c.length = k)

/-- R102, R103: toInt is the big-endian sum, toBits its inverse on `w` bits, and fails exactly when
the value does not fit. -/
def Obligations.ToBitsInvertsToInt : Prop :=
  (∀ b : Bits, toInt b =
    ((List.range b.length).map fun j => (b.getD j false).toNat * 2 ^ (b.length - 1 - j)).sum) ∧
  (∀ b : Bits, b ≠ [] → toBits (toInt b) b.length = some b) ∧
  (∀ v w : Nat, v < 2 ^ w → ∃ b, toBits v w = some b ∧ b.length = w ∧ toInt b = v) ∧
  (∀ v w : Nat, 2 ^ w ≤ v → toBits v w = none)

/-- R104: fold is the loop, each pass strictly lowers a sum it runs on, and the result fits `w` bits. -/
def Obligations.FoldRunsItsLoopToTheEnd : Prop :=
  ∀ s w : Nat, 1 ≤ w →
    fold s w = (if 2 ^ w - 1 < s then fold ((s >>> w) + (s &&& (2 ^ w - 1))) w else s) ∧
    (2 ^ w - 1 < s → (s >>> w) + (s &&& (2 ^ w - 1)) < s) ∧ fold s w ≤ 2 ^ w - 1

/-- R105: the closed form of fold. The spec derives it itself from R104. -/
def Obligations.FoldHasItsClosedForm : Prop :=
  ∀ w : Nat, 1 ≤ w → fold 0 w = 0 ∧
    ∀ s, 1 ≤ s → (2 ≤ w → fold s w = 1 + (s - 1) % (2 ^ w - 1)) ∧ (w = 1 → fold s w = 1)

/-- R106: flip complements one bit, twice gives back the sequence, and the complement is flip at
every index. -/
def Obligations.FlipComplementsOneBit : Prop :=
  ∀ (s : Bits) (i : Nat), i < s.length →
    (flipBit s i).length = s.length ∧ (flipBit s i)[i]? = s[i]?.map not ∧
    (∀ j, j ≠ i → (flipBit s i)[j]? = s[j]?) ∧ flipBit (flipBit s i) i = s ∧
    complement s = (List.range s.length).foldl flipBit s

/-! ## checksum_accumulator -/

/-- R121: CKS.GEN replaces OBUF with the chunks of the padded input, each followed by the complement
of its folded word sum, when that fits; nothing else changes but the hidden ACC. The sum is written
out word by word and the carry in the closed form of R105. -/
def Obligations.CksGenAppendsEachField : Prop :=
  ∀ s : State, 20 * blocks s.ibuf.length 16 ≤ s.maxLen →
    ∃ a, exec .cksGen s = .next { s with
      obuf := (List.range (blocks s.ibuf.length 16)).flatMap fun i =>
        let c := block s.ibuf 16 i
        c ++ lowBits (15 - carryFold (wordValue c 0 + wordValue c 1 + wordValue c 2 +
          wordValue c 3)) 4
      acc := a }

/-- R123: the length of CKS.GEN's result. The spec derives it itself from R121. -/
def Obligations.CksGenLengthLaw : Prop :=
  ∀ s t : State, s.err = none → exec .cksGen s = .next t → t.err = none →
    t.obuf.length = 16 * blocks s.ibuf.length 16 + 4 * blocks s.ibuf.length 16

/-- R122, R126: CKS.VFY pads to 20 bits and sets VALID to whether every word's five sub-words fold to
15; nothing else changes but the hidden ACC. -/
def Obligations.CksVfyJudgesEveryWord : Prop :=
  ∀ s : State, ∃ a, exec .cksVfy s = .next { s with
    valid := (List.range (blocks s.ibuf.length 20)).all fun i =>
      let x := block s.ibuf 20 i
      carryFold (wordValue x 0 + wordValue x 1 + wordValue x 2 + wordValue x 3 +
        wordValue x 4) == 15
    acc := a }

/-- R127: a generated codeword verifies, for every payload that fits. The spec derives it itself
from R121 and R122. -/
def Obligations.ChecksumRoundTripVerifies : Prop :=
  ∀ s : State, Ready s → 20 * blocks s.ibuf.length 16 ≤ s.maxLen →
    ∃ t, issueAll [.cksGen, .mov, .cksVfy] s = .next t ∧ t.valid = true ∧ Ready t ∧
      t.ibuf.length = 20 * blocks s.ibuf.length 16

/-- R125, R129: over one group, ACC never wraps, ends with the folded sum, and ends with the same
value when folded after every addition. The bounds are the spec's own derivation; that ACC is
stepped so is the model's reading (log 8). -/
def Obligations.AccumulatorHoldsTheFoldedSum : Prop :=
  ∀ group : Bits, (group.length = 16 → wordSum group ≤ 60) ∧ (group.length = 20 → wordSum group ≤ 75) ∧
    (group.length = 16 ∨ group.length = 20 →
      (accAfterGroup group).toNat = foldedSum group ∧ foldedSum group ≤ 15 ∧
      accFoldedEachWord group = accAfterGroup group)

/-! ## crc_lfsr_engine -/

/-- R140, R141: the four patterns, character for character; a name and its pattern as a literal are
the same operand of every command that takes a polynomial. -/
def Obligations.NamedPolynomialIsItsPattern : Prop :=
  ∀ (name : Poly) (pattern : String),
    (name, pattern) ∈ [(Poly.crc8, "100000111"), (Poly.crc10, "11000000011"),
      (Poly.crc16, "11000000000000101"), (Poly.crc32, "100000100110000010001110110110111")] →
    let lit := Poly.literal (pattern.toList.map (· == '1'))
    ∀ s : State, exec (.crcDiv name) s = exec (.crcDiv lit) s ∧
      exec (.crcGen name) s = exec (.crcGen lit) s ∧
      exec (.crcVfy name) s = exec (.crcVfy lit) s ∧
      ∀ shift, exec (.injUnd name shift) s = exec (.injUnd lit shift) s

/-- R144: a division performs exactly `|d| - n + 1` reduction steps; CRC.GEN's performs `L`. -/
def Obligations.DivisionStepCount : Prop :=
  (∀ d g : Bits, g ≠ [] → g.length ≤ d.length →
    divisionSteps d g = d.length - g.length + 1) ∧
  (∀ data g : Bits, g ≠ [] → data ≠ [] →
    divisionSteps (data ++ List.replicate (g.length - 1) false) g = data.length)

/-- R151: read as polynomials over GF(2), `xorDivide d g` is the remainder of `d` by `g`, in `n - 1`
bits. The spec derives it itself from R143. -/
def Obligations.XorDivideIsThePolynomialRemainder : Prop :=
  let poly : Bits → Polynomial (ZMod 2) := fun b =>
    b.foldl (fun acc bit => acc * Polynomial.X + (if bit then 1 else 0)) 0
  ∀ d g : Bits, g.head? = some true → g.length ≤ d.length →
    (xorDivide d g).length = g.length - 1 ∧
    poly (xorDivide d g) = Polynomial.modByMonic (poly d) (poly g)

/-- R151's consequences: the remainder of a sum is the sum of the remainders, and zeros before the
dividend do not change it. The spec derives them itself from R143. -/
def Obligations.XorDivideIsLinear : Prop :=
  ∀ a b g : Bits, g.head? = some true → g.length ≤ a.length → a.length = b.length →
    xorDivide (xorBits a b) g = xorBits (xorDivide a g) (xorDivide b g) ∧
    ∀ k, xorDivide (List.replicate k false ++ a) g = xorDivide a g

/-- R31, R150: the register-level sequence in the 64-bit SR and G computes the same remainder: after
CRC.DIV, SR holds OBUF and G the polynomial. That SR and G are held so until the boundary is the
model's reading (log 8). -/
def Obligations.ShiftRegisterComputesTheRemainder : Prop :=
  ∀ (p : Poly) (s : State), p.wellFormed = true → (polyPattern p).head? = some true →
    (polyPattern p).length ≤ s.ibuf.length → s.ibuf.length ≤ s.maxLen →
    ∃ t, exec (.crcDiv p) s = .next t ∧
      toBits t.sr.toNat ((polyPattern p).length - 1) = some t.obuf ∧
      toBits t.gLatch.toNat (polyPattern p).length = some (polyPattern p)

/-- R145: CRC.DIV replaces OBUF with the remainder of IBUF; nothing else changes but the hidden SR
and G. -/
def Obligations.CrcDivLeavesTheRemainder : Prop :=
  ∀ (p : Poly) (s : State), (polyPattern p).head? = some true →
    (polyPattern p).length ≤ s.ibuf.length → s.ibuf.length ≤ s.maxLen →
    ∃ r g, exec (.crcDiv p) s =
        .next { s with obuf := xorDivide s.ibuf (polyPattern p), sr := r, gLatch := g } ∧
      (xorDivide s.ibuf (polyPattern p)).length = (polyPattern p).length - 1

/-- R146: CRC.GEN of empty data is the empty codeword; otherwise the data followed by the remainder
of the data and `n - 1` zeros, when it fits. Nothing else changes but the hidden SR and G. -/
def Obligations.CrcGenAppendsTheRemainder : Prop :=
  ∀ (p : Poly) (s : State), (polyPattern p).head? = some true →
    let n := (polyPattern p).length
    (s.ibuf = [] → ∃ r g, exec (.crcGen p) s =
      .next { s with obuf := [], sr := r, gLatch := g }) ∧
    (s.ibuf ≠ [] → s.ibuf.length + n - 1 ≤ s.maxLen →
      ∃ rem r g, exec (.crcGen p) s =
          .next { s with obuf := s.ibuf ++ rem, sr := r, gLatch := g } ∧
        rem = xorDivide (s.ibuf ++ List.replicate (n - 1) false) (polyPattern p) ∧
        rem.length = n - 1)

/-- R147: CRC.VFY accepts the empty codeword, and otherwise sets VALID to whether the remainder is
all zeros. Nothing else changes but the hidden SR and G. -/
def Obligations.CrcVfyTestsTheRemainder : Prop :=
  ∀ (p : Poly) (s : State), (polyPattern p).head? = some true →
    let n := (polyPattern p).length
    (s.ibuf = [] → ∃ r g, exec (.crcVfy p) s =
      .next { s with valid := true, sr := r, gLatch := g }) ∧
    (n ≤ s.ibuf.length → ∃ r g, exec (.crcVfy p) s =
      .next { s with
        valid := decide (xorDivide s.ibuf (polyPattern p) = List.replicate (n - 1) false)
        sr := r, gLatch := g })

/-- R149 (a): a generated codeword verifies, under every admitted polynomial and for all data that
fits. The spec derives it itself from the meaning of the division. -/
def Obligations.CrcRoundTripVerifies : Prop :=
  ∀ (p : Poly) (s : State), Ready s → p.wellFormed = true → (polyPattern p).head? = some true →
    (s.ibuf = [] ∨ s.ibuf.length + (polyPattern p).length - 1 ≤ s.maxLen) →
    ∃ t, issueAll [.crcGen p, .mov, .crcVfy p] s = .next t ∧ t.valid = true ∧ Ready t ∧
      s.ibuf <+: t.ibuf

/-- R149 (b): every single flipped bit of every valid codeword is detected when the polynomial has
at least two 1 bits; with one, a flip before the last `n - 1` bits is not. The spec derives it
itself from the meaning of the division. -/
def Obligations.SingleBitErrorsAreDetected : Prop :=
  ∀ (g c : Bits) (i : Nat), g.head? = some true → g.length ≤ c.length → i < c.length →
    xorDivide c g = List.replicate (g.length - 1) false →
    (2 ≤ g.count true →
      xorDivide (flipBit c i) g ≠ List.replicate (g.length - 1) false) ∧
    (g.count true = 1 → i + (g.length - 1) < c.length →
      xorDivide (flipBit c i) g = List.replicate (g.length - 1) false)

/-- R149 (c): every burst of length `m < n` is detected when the polynomial's last bit is 1; with
last bit 0 some burst of some codeword is not. The spec derives it itself from the meaning of the
division. -/
def Obligations.ShortBurstsAreDetected : Prop :=
  ∀ g : Bits, g.head? = some true →
    (g.getLast? = some true → ∀ (word e : Bits) (a m : Nat), g.length ≤ word.length →
      e.length = word.length → m < g.length → e ≠ word →
      (∀ j : Nat, e[j]? ≠ word[j]? → a ≤ j ∧ j < a + m) →
      xorDivide word g = List.replicate (g.length - 1) false →
      xorDivide e g ≠ List.replicate (g.length - 1) false) ∧
    (g.getLast? = some false → ∃ (word e : Bits) (m : Nat), g.length ≤ word.length ∧
      e.length = word.length ∧ m < g.length ∧ e ≠ word ∧ (∀ j : Nat, e[j]? ≠ word[j]? → j < m) ∧
      xorDivide word g = List.replicate (g.length - 1) false ∧
      xorDivide e g = List.replicate (g.length - 1) false)

/-! ## error_injector -/

/-- R175: INJ.RND makes exactly `count` draws of an index and flips each; IBUF and everything else
stays. The list of answers (log 2) and the record of draws (log 14) are the model's choice. -/
def Obligations.InjRndFlipsEachAnswer : Prop :=
  ∀ (count : Imm) (s : State) (picks rest : List Nat), s.inj = none →
    s.answers = picks ++ rest → picks.length = count.toNat →
    (∀ r ∈ picks, r < s.ibuf.length) →
    exec (.injRnd count) s = .next { s with
      obuf := picks.foldl flipBit s.ibuf
      answers := rest
      draws := s.draws ++ picks.map fun r => ⟨⟨.int, 0, s.ibuf.length - 1⟩, r⟩ }

/-- R175's closed form: a bit differs exactly when its index was answered an odd number of times; so
at most `count` positions differ, and their number has the parity of `count`. The spec derives it
itself from R106. -/
def Obligations.RepeatedFlipsCancel : Prop :=
  ∀ (data : Bits) (picks : List Nat), (∀ r ∈ picks, r < data.length) →
    (∀ i : Nat, (picks.foldl flipBit data)[i]? =
      data[i]?.map fun b => if picks.count i % 2 = 1 then !b else b) ∧
    differences data (picks.foldl flipBit data) ≤ picks.length ∧
    differences data (picks.foldl flipBit data) % 2 = picks.length % 2

/-- R176: INJ.BST draws the start, then one flip decision per position of the window, ascending.
Bits outside the window stay; a bit inside is flipped exactly when its answer was 1. The list of
answers (log 2) and the record of draws (log 14) are the model's choice. -/
def Obligations.InjBstFlipsInsideItsWindow : Prop :=
  ∀ (size : Imm) (s : State) (start : Nat) (decisions rest : List Nat), s.inj = none →
    s.answers = start :: (decisions ++ rest) → decisions.length = size.toNat →
    size.toNat ≤ s.ibuf.length → start ≤ s.ibuf.length - size.toNat →
    (∀ f ∈ decisions, f ≤ 1) →
    ∃ w, exec (.injBst size) s = .next { s with
        obuf := w
        answers := rest
        draws := s.draws ++ ⟨⟨.int, 0, s.ibuf.length - size.toNat⟩, start⟩ ::
          decisions.map fun f => ⟨⟨.bern, 0, 1⟩, f⟩ } ∧
      ∀ i : Nat, w[i]? = s.ibuf[i]?.map fun b =>
        if start ≤ i ∧ decisions[i - start]? = some 1 then !b else b

/-- R177: INJ.ODD draws the count, then ranks among the indices not yet chosen; it flips `2j + 1`
distinct indices, fewer than the data has, and exactly those. The list of answers (log 2) and the
record of draws (log 14) are the model's choice. -/
def Obligations.InjOddFlipsAnOddNumber : Prop :=
  ∀ (s : State) (j : Nat) (ranks rest : List Nat), s.inj = none →
    s.answers = j :: (ranks ++ rest) → 2 ≤ s.ibuf.length → j ≤ s.ibuf.length / 2 - 1 →
    ranks.length = 2 * j + 1 →
    (∀ (k : Nat) (r : Nat), ranks[k]? = some r → r ≤ s.ibuf.length - 1 - k) →
    ∃ picks : List Nat, picks.length = 2 * j + 1 ∧ picks.length < s.ibuf.length ∧ picks.Nodup ∧
      (∀ i ∈ picks, i < s.ibuf.length) ∧
      (∀ (k i : Nat), picks[k]? = some i →
        ranks[k]? = some ((List.range i).filter fun x => !(picks.take k).contains x).length) ∧
      exec .injOdd s = .next { s with
        obuf := picks.foldl flipBit s.ibuf
        answers := rest
        draws := s.draws ++ ⟨⟨.int, 0, s.ibuf.length / 2 - 1⟩, j⟩ ::
          ranks.mapIdx fun k r => ⟨⟨.int, 0, s.ibuf.length - 1 - k⟩, r⟩ } ∧
      differences s.ibuf (picks.foldl flipBit s.ibuf) = 2 * j + 1

/-- R178: INJ.UND makes no draw and xors the pattern, right-aligned and moved left by the shift, into
the data; positions outside are dropped. Nothing else changes. -/
def Obligations.InjUndAppliesItsMask : Prop :=
  ∀ (p : Poly) (shift : Imm) (s : State), (polyPattern p).head? = some true →
    ∃ w, exec (.injUnd p shift) s = .next { s with obuf := w } ∧
      ∀ i : Nat, w[i]? = s.ibuf[i]?.map fun b =>
        let pos : Int := (s.ibuf.length : Int) - (polyPattern p).length - shift.toNat
        if pos ≤ i ∧ (polyPattern p)[((i : Int) - pos).toNat]? = some true then !b else b

/-- R179: with the mask inside the data the corrupted codeword differs and yet verifies under the
same polynomial. The spec derives it itself from R178. -/
def Obligations.AlignedCorruptionIsInvisible : Prop :=
  (∀ (g d : Bits) (shift : Nat), g.head? = some true → shift + g.length ≤ d.length →
    xorDivide (applyMask d g shift) g = xorDivide d g ∧ applyMask d g shift ≠ d) ∧
  (∀ (p : Poly) (shift : Imm) (s : State), Ready s → p.wellFormed = true →
    (polyPattern p).head? = some true → shift.toNat < s.ibuf.length →
    s.ibuf.length + (polyPattern p).length - 1 ≤ s.maxLen →
    ∃ c t, issueAll [.crcGen p, .mov] s = .next c ∧
      issueAll [.crcGen p, .mov, .injUnd p shift, .mov, .crcVfy p] s = .next t ∧
      t.valid = true ∧ Ready t ∧ t.ibuf ≠ c.ibuf ∧ t.ibuf.length = c.ibuf.length)

/-- R172, R175, R176, R177: an INJ command whose draws are not all answered waits. With answers in
range but fewer than its draws, INJ.RND, INJ.BST and INJ.ODD have consumed them, stand at the next
draw of their pseudocode (the request that `injRequest` of the waiting command gives), and have
written nothing. Whatever command waits, no register has changed and every answer there was has been
consumed. The list of answers (log 2), the waiting command in State (log 3) and the record of draws
(log 14) are the model's choice. -/
def Obligations.UnansweredDrawWaits : Prop :=
  let waits (i : Instr) (s : State) (used : List Draw) (next : DrawRequest) : Prop :=
    ∃ run, injRequest run = some next ∧
      exec i s = .next { s with answers := [], draws := s.draws ++ used, inj := some run }
  (∀ s : State, Ready s →
    let len := s.ibuf.length
    (∀ count : Imm, s.ibuf ≠ [] → s.answers.length < count.toNat → (∀ r ∈ s.answers, r < len) →
      waits (.injRnd count) s (s.answers.map fun r => ⟨⟨.int, 0, len - 1⟩, r⟩)
        ⟨.int, 0, len - 1⟩) ∧
    (∀ size : Imm, size.toNat ≤ len → s.answers = [] →
      waits (.injBst size) s [] ⟨.int, 0, len - size.toNat⟩) ∧
    (∀ (size : Imm) (start : Nat) (decisions : List Nat), size.toNat ≤ len →
      s.answers = start :: decisions → start ≤ len - size.toNat → (∀ f ∈ decisions, f ≤ 1) →
      decisions.length < size.toNat →
      waits (.injBst size) s (⟨⟨.int, 0, len - size.toNat⟩, start⟩ ::
        decisions.map fun f => ⟨⟨.bern, 0, 1⟩, f⟩) ⟨.bern, 0, 1⟩) ∧
    (2 ≤ len → s.answers = [] → waits .injOdd s [] ⟨.int, 0, len / 2 - 1⟩) ∧
    (∀ (j : Nat) (ranks : List Nat), 2 ≤ len → s.answers = j :: ranks → j ≤ len / 2 - 1 →
      (∀ (k : Nat) (r : Nat), ranks[k]? = some r → r ≤ len - 1 - k) →
      ranks.length < 2 * j + 1 →
      waits .injOdd s (⟨⟨.int, 0, len / 2 - 1⟩, j⟩ ::
        ranks.mapIdx fun k r => ⟨⟨.int, 0, len - 1 - k⟩, r⟩) ⟨.int, 0, len - 1 - ranks.length⟩)) ∧
  (∀ (i : Instr) (s t : State), Ready s → exec i s = .next t → t.inj ≠ none →
    ∃ used : List Draw, used.map Draw.answer = s.answers ∧
      (∀ d ∈ used, d.request.lo ≤ d.answer ∧ d.answer ≤ d.request.hi) ∧
      t = { s with answers := [], draws := s.draws ++ used, inj := t.inj })

/-- R172, R174: a waiting command goes on where it stood: answers that come later have the result
they would have had if they had been there from the start. The attach event is the model's choice
(log 2). -/
def Obligations.LateAnswersChangeNothing : Prop :=
  ∀ (i : Instr) (s t : State) (late : List Nat), Ready s → exec i s = .next t → t.inj ≠ none →
    ∃ u, exec i { s with answers := s.answers ++ late } = .next u ∧
      attachSource late t = settle u

/-- R40, R172, R230: while a command waits the host can only reset CORE or let the source answer; a
source that never answers is a hang (log 3), and a descriptor or a read is refused (log 11). An
answer arrives by the attach event, in every state: a waiting command goes on with the source's
answers (log 3), with none waiting they are there for the next draws and nothing else changes
(log 2). That transactions are a list (log 1) and reset lands at a waiting point (log 4) are the
model's choice too. -/
def Obligations.WaitingCommandYieldsOnlyToReset : Prop :=
  (∀ (s : State) (run : InjRun), s.inj = some run →
    (s.host = [] → step s = .fault .randomSourceSilent) ∧
    (∀ d rest, s.host = .command d :: rest →
      step s = .refused .hostTransactionDuringCommand) ∧
    (∀ rest, (s.host = .readStatus :: rest ∨ s.host = .readIlen :: rest ∨
        s.host = .readOlen :: rest ∨ ∃ i, s.host = .readOdata i :: rest) →
      step s = .refused .hostTransactionDuringCommand) ∧
    (∀ rest, s.host = .reset :: rest →
      ∃ t, step s = .next t ∧ Ready t ∧ t.ibuf = [] ∧ t.obuf = [] ∧ t.draws = s.draws)) ∧
  (∀ (s : State) (answers : List Nat) (rest : List HostEvent), s.host = .attach answers :: rest →
    step s = .next (attachSource answers { s with host := rest }) ∧
    (s.inj = none → step s = .next { s with host := rest, answers := answers }))

/-- R180: no INJ command changes IBUF; one that completes leaves OLEN = ILEN; one that faults
changes neither buffer. So when it runs at once, and when it goes on after waiting for the source.
The attach event (log 2) and the waiting command held in State (log 3), which the second clause is
about, are the model's choice. -/
def Obligations.InjectionKeepsInputAndLength : Prop :=
  let keeps (s t : State) : Prop :=
    t.ibuf = s.ibuf ∧ (t.err = none → t.inj = none → t.obuf.length = t.ibuf.length) ∧
      (t.err ≠ none → t.obuf = s.obuf)
  (∀ (i : Instr) (s t : State),
    ((∃ c, i = .injRnd c) ∨ (∃ b, i = .injBst b) ∨ i = .injOdd ∨ ∃ p k, i = .injUnd p k) →
    Ready s → exec i s = .next t → keeps s t) ∧
  (∀ (s : State) (answers : List Nat), Inv s → s.inj ≠ none → keeps s (attachSource answers s))

/-! ## When each fault is raised -/

/-- R203, R212: a legal descriptor with PSEL = 1 raises POLY exactly when N = 0 or its leading bit is
0, whatever the operand. -/
def Obligations.PolyFaultIsRaisedExactly : Prop :=
  ∀ (d : Descriptor) (s : State), Ready s →
    let f := fieldsOf d
    let bad := (∃ i, decode d = .command i) ∧ f.psel = 1 ∧
      (f.n = 0 ∨ f.data.getLsbD (f.n.toNat - 1) = false)
    (bad → runDescriptor d s = .next { s with err := some .poly }) ∧
    (∀ t, runDescriptor d s = .next t → t.err = some .poly → bad)

/-- R204: RANGE is raised exactly when an injector would choose from an empty set. -/
def Obligations.RangeFaultIsRaisedExactly : Prop :=
  ∀ (i : Instr) (s : State), Ready s →
    let empty := (∃ c, i = .injRnd c ∧ 1 ≤ c.toNat ∧ s.ibuf = []) ∨
      (∃ b, i = .injBst b ∧ s.ibuf.length < b.toNat) ∨ (i = .injOdd ∧ s.ibuf.length < 2)
    (empty → exec i s = .next { s with err := some .range }) ∧
    (∀ t, exec i s = .next t → t.err = some .range → empty)

/-- R205: SHORT is raised exactly when a division would start with fewer dividend bits than the
polynomial, valid (R203), has. -/
def Obligations.ShortFaultIsRaisedExactly : Prop :=
  ∀ (i : Instr) (s : State), Ready s →
    let short := ∃ p, (polyPattern p).head? = some true ∧
      s.ibuf.length < (polyPattern p).length ∧
      (i = .crcDiv p ∨ (i = .crcVfy p ∧ 1 ≤ s.ibuf.length))
    (short → exec i s = .next { s with err := some .short }) ∧
    (∀ t, exec i s = .next t → t.err = some .short → short)

/-- R206: CAP is raised exactly when a buffer would have to hold more than MAXLEN bits, after the
checks before it (R212). -/
def Obligations.CapFaultIsRaisedExactly : Prop :=
  ∀ (i : Instr) (s : State), Ready s →
    let full := (∃ b, i = .push b ∧ s.maxLen < s.ibuf.length + b.length) ∨
      (i = .cksGen ∧ s.maxLen < 20 * blocks s.ibuf.length 16) ∨
      (∃ p, i = .crcGen p ∧ (polyPattern p).head? = some true ∧ 1 ≤ s.ibuf.length ∧
        s.maxLen < s.ibuf.length + (polyPattern p).length - 1) ∨
      (∃ p, i = .crcDiv p ∧ (polyPattern p).head? = some true ∧
        (polyPattern p).length ≤ s.ibuf.length ∧ s.maxLen < (polyPattern p).length - 1)
    (full → exec i s = .next { s with err := some .cap }) ∧
    (∀ t, exec i s = .next t → t.err = some .cap → full)

/-- R207: RNG is raised exactly when an answer is outside the range that was asked for; every
request is one R171 allows when CORE is in a state a run can be in. The list of answers (log 2) and
the record of draws (log 14) are the model's choice. -/
def Obligations.RngFaultIsRaisedExactly : Prop :=
  ∀ (i : Instr) (s t : State), Inv s → Ready s → exec i s = .next t →
    ∃ used : List Draw, t.draws = s.draws ++ used ∧
      (∀ d ∈ used, d.request.lo ≤ d.request.hi ∧ d.request.hi < 2 ^ 32) ∧
      (t.err = some .rng ↔ ∃ d ∈ used, d.answer < d.request.lo ∨ d.request.hi < d.answer)
end

