-- ==== Sys2Proof/Laws/BitVector.lean ====
section
/-! SUPPORT. The small lemmas of the primitives: lengths, and the bounds each result keeps. -/

namespace Sys2Proof.Machine

@[simp] theorem zeros_length (k : Nat) : (zeros k).length = k := List.length_replicate

@[simp] theorem complement_length (s : Bits) : (complement s).length = s.length := List.length_map _

@[simp] theorem slice_length (s : Bits) (i j : Nat) :
    (slice s i j).length = min (j - i) (s.length - i) := by
  simp [slice]

@[simp] theorem xorBits_length (a b : Bits) : (xorBits a b).length = min a.length b.length := by
  simp [xorBits]

@[simp] theorem flipBit_length (s : Bits) (i : Nat) : (flipBit s i).length = s.length := by
  simp [flipBit]

@[simp] theorem lowBits_length (v w : Nat) : (lowBits v w).length = w := by
  simp [lowBits]

@[simp] theorem padLeft_length (s : Bits) (block : Nat) :
    (padLeft s block).length = (block - s.length % block) % block + s.length := by
  simp [padLeft]

@[simp] theorem chunk_length (s : Bits) (k : Nat) : (chunk s k).length = s.length / k := by
  simp [chunk]

theorem toBits_eq_some (v w : Nat) (h : v < 2 ^ w) : toBits v w = some (lowBits v w) := if_pos h

theorem toBits_eq_none (v w : Nat) (h : 2 ^ w ≤ v) : toBits v w = none :=
  if_neg (Nat.not_lt.mpr h)

theorem toInt_nil : toInt [] = 0 := rfl

/-- The value so far is doubled by every further bit. -/
theorem toInt_foldl (b : Bits) (v : Nat) :
    b.foldl (fun u bit => 2 * u + bit.toNat) v = v * 2 ^ b.length + toInt b := by
  induction b generalizing v with
  | nil => simp [toInt]
  | cons c b ih =>
    have unfoldInt : toInt (c :: b) = b.foldl (fun u bit => 2 * u + bit.toNat) c.toNat := by
      simp [toInt]
    rw [unfoldInt, List.foldl_cons, ih, ih c.toNat, List.length_cons, Nat.pow_succ]
    ring

theorem toInt_cons (c : Bool) (b : Bits) :
    toInt (c :: b) = c.toNat * 2 ^ b.length + toInt b := by
  rw [← toInt_foldl b c.toNat]
  simp [toInt]

theorem toInt_append (a b : Bits) : toInt (a ++ b) = toInt a * 2 ^ b.length + toInt b := by
  rw [← toInt_foldl b (toInt a)]
  simp [toInt]

theorem toInt_lt (b : Bits) : toInt b < 2 ^ b.length := by
  induction b with
  | nil => simp [toInt]
  | cons c b ih =>
    rw [toInt_cons, List.length_cons, Nat.pow_succ]
    cases c <;> simp <;> omega

@[simp] theorem foldOnce_le (s w : Nat) (h : 2 ^ w ≤ s) (hw : 1 ≤ w) : foldOnce s w < s := by
  have two : 2 ≤ 2 ^ w := by
    calc 2 = 2 ^ 1 := rfl
      _ ≤ 2 ^ w := Nat.pow_le_pow_right (by omega) hw
  have split := Nat.div_add_mod s (2 ^ w)
  have quot : 1 ≤ s / 2 ^ w := (Nat.one_le_div_iff (by omega)).mpr h
  have twice : 2 * (s / 2 ^ w) ≤ 2 ^ w * (s / 2 ^ w) := Nat.mul_le_mul_right _ two
  unfold foldOnce
  omega

end Sys2Proof.Machine
end

