-- ==== Sys2Proof/Laws/Decode.lean ====
section
/-! SUPPORT. The fields of a descriptor put together and taken apart (R71), the opcode table read both
ways (R72). -/

namespace Sys2Proof

open Sys2Proof.Machine

theorem getLsbD_append_six {a b c d e g : Nat} (x : BitVec a) (y : BitVec b) (z : BitVec c)
    (u : BitVec d) (v : BitVec e) (w : BitVec g) (i : Nat) :
    (x ++ y ++ z ++ u ++ v ++ w).getLsbD i =
      if i < g then w.getLsbD i
      else if i - g < e then v.getLsbD (i - g)
      else if i - g - e < d then u.getLsbD (i - g - e)
      else if i - g - e - d < c then z.getLsbD (i - g - e - d)
      else if i - g - e - d - c < b then y.getLsbD (i - g - e - d - c)
      else x.getLsbD (i - g - e - d - c - b) := by
  simp only [BitVec.getLsbD_append]

/-- Each bit of a descriptor is a bit of the field R71 puts there. -/
theorem getLsbD_ofFields (f : Fields) (i : Nat) :
    (ofFields f).getLsbD i =
      if i < 64 then f.data.getLsbD i
      else if i - 64 < 32 then f.imm.getLsbD (i - 64)
      else if i - 64 - 32 < 12 then f.zero.getLsbD (i - 64 - 32)
      else if i - 64 - 32 - 12 < 8 then f.n.getLsbD (i - 64 - 32 - 12)
      else if i - 64 - 32 - 12 - 8 < 4 then f.psel.getLsbD (i - 64 - 32 - 12 - 8)
      else f.op.getLsbD (i - 64 - 32 - 12 - 8 - 4) :=
  getLsbD_append_six f.op f.psel f.n f.zero f.imm f.data i

theorem fieldsOf_ofFields (f : Fields) : fieldsOf (ofFields f) = f := by
  have field (k w : Nat) (v : BitVec w)
      (h : ∀ i, i < w → (ofFields f).getLsbD (k + i) = v.getLsbD i) :
      (ofFields f).extractLsb' k w = v := by
    ext i hi
    simp [← BitVec.getLsbD_eq_getElem, hi, h]
  have data := field 0 64 f.data fun i hi => by rw [getLsbD_ofFields]; simp [hi]
  have imm := field 64 32 f.imm fun i hi => by rw [getLsbD_ofFields]; simp [hi]
  have zero := field 96 12 f.zero fun i hi => by
    rw [getLsbD_ofFields, if_neg (by omega), if_neg (by omega), if_pos (by omega)]
    rw [show 96 + i - 64 - 32 = i by omega]
  have n := field 108 8 f.n fun i hi => by
    rw [getLsbD_ofFields, if_neg (by omega), if_neg (by omega), if_neg (by omega),
      if_pos (by omega)]
    rw [show 108 + i - 64 - 32 - 12 = i by omega]
  have psel := field 116 4 f.psel fun i hi => by
    rw [getLsbD_ofFields, if_neg (by omega), if_neg (by omega), if_neg (by omega),
      if_neg (by omega), if_pos (by omega)]
    rw [show 116 + i - 64 - 32 - 12 - 8 = i by omega]
  have op := field 120 8 f.op fun i hi => by
    rw [getLsbD_ofFields, if_neg (by omega), if_neg (by omega), if_neg (by omega),
      if_neg (by omega), if_neg (by omega)]
    rw [show 120 + i - 64 - 32 - 12 - 8 - 4 = i by omega]
  simp only [fieldsOf, data, imm, zero, n, psel, op]

theorem opcodeOf_opcodeByte (o : Opcode) : opcodeOf (opcodeByte o) = some o := by
  cases o <;> rfl

/-- No two rows of R72's table share a byte or an opcode. -/
theorem opcodeTable_distinct :
    opcodeTable.Pairwise fun a b => a.1 ≠ b.1 ∧ a.2 ≠ b.2 := by decide

end Sys2Proof
end

