-- ==== Sys2Proof/Laws/State.lean ====
section
/-! SUPPORT. One lemma per field per update of the state, each true by rfl, so that no proof unfolds a
record update. Fault entry has its lemmas in Laws/Ops.lean. -/

namespace Sys2Proof.Machine

variable (s : State)

@[simp] theorem setIbuf_ibuf (b : Bits) : (setIbuf b s).ibuf = b := rfl
@[simp] theorem setIbuf_obuf (b : Bits) : (setIbuf b s).obuf = s.obuf := rfl
@[simp] theorem setIbuf_valid (b : Bits) : (setIbuf b s).valid = s.valid := rfl
@[simp] theorem setIbuf_err (b : Bits) : (setIbuf b s).err = s.err := rfl
@[simp] theorem setIbuf_acc (b : Bits) : (setIbuf b s).acc = s.acc := rfl
@[simp] theorem setIbuf_sr (b : Bits) : (setIbuf b s).sr = s.sr := rfl
@[simp] theorem setIbuf_gLatch (b : Bits) : (setIbuf b s).gLatch = s.gLatch := rfl
@[simp] theorem setIbuf_inj (b : Bits) : (setIbuf b s).inj = s.inj := rfl
@[simp] theorem setIbuf_maxLen (b : Bits) : (setIbuf b s).maxLen = s.maxLen := rfl
@[simp] theorem setIbuf_host (b : Bits) : (setIbuf b s).host = s.host := rfl
@[simp] theorem setIbuf_answers (b : Bits) : (setIbuf b s).answers = s.answers := rfl
@[simp] theorem setIbuf_draws (b : Bits) : (setIbuf b s).draws = s.draws := rfl
@[simp] theorem setIbuf_reply (b : Bits) : (setIbuf b s).reply = s.reply := rfl
@[simp] theorem setIbuf_tick (b : Bits) : (setIbuf b s).tick = s.tick := rfl

@[simp] theorem setObuf_ibuf (b : Bits) : (setObuf b s).ibuf = s.ibuf := rfl
@[simp] theorem setObuf_obuf (b : Bits) : (setObuf b s).obuf = b := rfl
@[simp] theorem setObuf_valid (b : Bits) : (setObuf b s).valid = s.valid := rfl
@[simp] theorem setObuf_err (b : Bits) : (setObuf b s).err = s.err := rfl
@[simp] theorem setObuf_acc (b : Bits) : (setObuf b s).acc = s.acc := rfl
@[simp] theorem setObuf_sr (b : Bits) : (setObuf b s).sr = s.sr := rfl
@[simp] theorem setObuf_gLatch (b : Bits) : (setObuf b s).gLatch = s.gLatch := rfl
@[simp] theorem setObuf_inj (b : Bits) : (setObuf b s).inj = s.inj := rfl
@[simp] theorem setObuf_maxLen (b : Bits) : (setObuf b s).maxLen = s.maxLen := rfl
@[simp] theorem setObuf_host (b : Bits) : (setObuf b s).host = s.host := rfl
@[simp] theorem setObuf_answers (b : Bits) : (setObuf b s).answers = s.answers := rfl
@[simp] theorem setObuf_draws (b : Bits) : (setObuf b s).draws = s.draws := rfl
@[simp] theorem setObuf_reply (b : Bits) : (setObuf b s).reply = s.reply := rfl
@[simp] theorem setObuf_tick (b : Bits) : (setObuf b s).tick = s.tick := rfl

@[simp] theorem setValid_ibuf (v : Bool) : (setValid v s).ibuf = s.ibuf := rfl
@[simp] theorem setValid_obuf (v : Bool) : (setValid v s).obuf = s.obuf := rfl
@[simp] theorem setValid_valid (v : Bool) : (setValid v s).valid = v := rfl
@[simp] theorem setValid_err (v : Bool) : (setValid v s).err = s.err := rfl
@[simp] theorem setValid_acc (v : Bool) : (setValid v s).acc = s.acc := rfl
@[simp] theorem setValid_sr (v : Bool) : (setValid v s).sr = s.sr := rfl
@[simp] theorem setValid_gLatch (v : Bool) : (setValid v s).gLatch = s.gLatch := rfl
@[simp] theorem setValid_inj (v : Bool) : (setValid v s).inj = s.inj := rfl
@[simp] theorem setValid_maxLen (v : Bool) : (setValid v s).maxLen = s.maxLen := rfl
@[simp] theorem setValid_host (v : Bool) : (setValid v s).host = s.host := rfl
@[simp] theorem setValid_answers (v : Bool) : (setValid v s).answers = s.answers := rfl
@[simp] theorem setValid_draws (v : Bool) : (setValid v s).draws = s.draws := rfl
@[simp] theorem setValid_reply (v : Bool) : (setValid v s).reply = s.reply := rfl
@[simp] theorem setValid_tick (v : Bool) : (setValid v s).tick = s.tick := rfl

@[simp] theorem setAcc_ibuf (a : BitVec 8) : (setAcc a s).ibuf = s.ibuf := rfl
@[simp] theorem setAcc_obuf (a : BitVec 8) : (setAcc a s).obuf = s.obuf := rfl
@[simp] theorem setAcc_valid (a : BitVec 8) : (setAcc a s).valid = s.valid := rfl
@[simp] theorem setAcc_err (a : BitVec 8) : (setAcc a s).err = s.err := rfl
@[simp] theorem setAcc_acc (a : BitVec 8) : (setAcc a s).acc = a := rfl
@[simp] theorem setAcc_sr (a : BitVec 8) : (setAcc a s).sr = s.sr := rfl
@[simp] theorem setAcc_gLatch (a : BitVec 8) : (setAcc a s).gLatch = s.gLatch := rfl
@[simp] theorem setAcc_inj (a : BitVec 8) : (setAcc a s).inj = s.inj := rfl
@[simp] theorem setAcc_maxLen (a : BitVec 8) : (setAcc a s).maxLen = s.maxLen := rfl
@[simp] theorem setAcc_host (a : BitVec 8) : (setAcc a s).host = s.host := rfl
@[simp] theorem setAcc_answers (a : BitVec 8) : (setAcc a s).answers = s.answers := rfl
@[simp] theorem setAcc_draws (a : BitVec 8) : (setAcc a s).draws = s.draws := rfl
@[simp] theorem setAcc_reply (a : BitVec 8) : (setAcc a s).reply = s.reply := rfl
@[simp] theorem setAcc_tick (a : BitVec 8) : (setAcc a s).tick = s.tick := rfl

@[simp] theorem setShiftRegister_ibuf (r : BitVec 64) : (setShiftRegister r s).ibuf = s.ibuf := rfl
@[simp] theorem setShiftRegister_obuf (r : BitVec 64) : (setShiftRegister r s).obuf = s.obuf := rfl
@[simp] theorem setShiftRegister_valid (r : BitVec 64) : (setShiftRegister r s).valid = s.valid := rfl
@[simp] theorem setShiftRegister_err (r : BitVec 64) : (setShiftRegister r s).err = s.err := rfl
@[simp] theorem setShiftRegister_acc (r : BitVec 64) : (setShiftRegister r s).acc = s.acc := rfl
@[simp] theorem setShiftRegister_sr (r : BitVec 64) : (setShiftRegister r s).sr = r := rfl
@[simp] theorem setShiftRegister_gLatch (r : BitVec 64) : (setShiftRegister r s).gLatch = s.gLatch := rfl
@[simp] theorem setShiftRegister_inj (r : BitVec 64) : (setShiftRegister r s).inj = s.inj := rfl
@[simp] theorem setShiftRegister_maxLen (r : BitVec 64) : (setShiftRegister r s).maxLen = s.maxLen := rfl
@[simp] theorem setShiftRegister_host (r : BitVec 64) : (setShiftRegister r s).host = s.host := rfl
@[simp] theorem setShiftRegister_answers (r : BitVec 64) : (setShiftRegister r s).answers = s.answers := rfl
@[simp] theorem setShiftRegister_draws (r : BitVec 64) : (setShiftRegister r s).draws = s.draws := rfl
@[simp] theorem setShiftRegister_reply (r : BitVec 64) : (setShiftRegister r s).reply = s.reply := rfl
@[simp] theorem setShiftRegister_tick (r : BitVec 64) : (setShiftRegister r s).tick = s.tick := rfl

@[simp] theorem setPolyLatch_ibuf (g : BitVec 64) : (setPolyLatch g s).ibuf = s.ibuf := rfl
@[simp] theorem setPolyLatch_obuf (g : BitVec 64) : (setPolyLatch g s).obuf = s.obuf := rfl
@[simp] theorem setPolyLatch_valid (g : BitVec 64) : (setPolyLatch g s).valid = s.valid := rfl
@[simp] theorem setPolyLatch_err (g : BitVec 64) : (setPolyLatch g s).err = s.err := rfl
@[simp] theorem setPolyLatch_acc (g : BitVec 64) : (setPolyLatch g s).acc = s.acc := rfl
@[simp] theorem setPolyLatch_sr (g : BitVec 64) : (setPolyLatch g s).sr = s.sr := rfl
@[simp] theorem setPolyLatch_gLatch (g : BitVec 64) : (setPolyLatch g s).gLatch = g := rfl
@[simp] theorem setPolyLatch_inj (g : BitVec 64) : (setPolyLatch g s).inj = s.inj := rfl
@[simp] theorem setPolyLatch_maxLen (g : BitVec 64) : (setPolyLatch g s).maxLen = s.maxLen := rfl
@[simp] theorem setPolyLatch_host (g : BitVec 64) : (setPolyLatch g s).host = s.host := rfl
@[simp] theorem setPolyLatch_answers (g : BitVec 64) : (setPolyLatch g s).answers = s.answers := rfl
@[simp] theorem setPolyLatch_draws (g : BitVec 64) : (setPolyLatch g s).draws = s.draws := rfl
@[simp] theorem setPolyLatch_reply (g : BitVec 64) : (setPolyLatch g s).reply = s.reply := rfl
@[simp] theorem setPolyLatch_tick (g : BitVec 64) : (setPolyLatch g s).tick = s.tick := rfl

@[simp] theorem settle_ibuf : (settle s).ibuf = s.ibuf := rfl
@[simp] theorem settle_obuf : (settle s).obuf = s.obuf := rfl
@[simp] theorem settle_valid : (settle s).valid = s.valid := rfl
@[simp] theorem settle_err : (settle s).err = s.err := rfl
@[simp] theorem settle_acc : (settle s).acc = Config.freeAcc s.tick := rfl
@[simp] theorem settle_sr : (settle s).sr = Config.freeShiftRegister s.tick := rfl
@[simp] theorem settle_gLatch : (settle s).gLatch = Config.freePolyLatch s.tick := rfl
@[simp] theorem settle_inj : (settle s).inj = s.inj := rfl
@[simp] theorem settle_maxLen : (settle s).maxLen = s.maxLen := rfl
@[simp] theorem settle_host : (settle s).host = s.host := rfl
@[simp] theorem settle_answers : (settle s).answers = s.answers := rfl
@[simp] theorem settle_draws : (settle s).draws = s.draws := rfl
@[simp] theorem settle_reply : (settle s).reply = s.reply := rfl
@[simp] theorem settle_tick : (settle s).tick = s.tick + 1 := rfl

@[simp] theorem resetCore_ibuf : (resetCore s).ibuf = [] := rfl
@[simp] theorem resetCore_obuf : (resetCore s).obuf = [] := rfl
@[simp] theorem resetCore_valid : (resetCore s).valid = false := rfl
@[simp] theorem resetCore_err : (resetCore s).err = none := rfl
@[simp] theorem resetCore_acc : (resetCore s).acc = Config.freeAcc s.tick := rfl
@[simp] theorem resetCore_sr : (resetCore s).sr = Config.freeShiftRegister s.tick := rfl
@[simp] theorem resetCore_gLatch : (resetCore s).gLatch = Config.freePolyLatch s.tick := rfl
@[simp] theorem resetCore_inj : (resetCore s).inj = none := rfl
@[simp] theorem resetCore_maxLen : (resetCore s).maxLen = s.maxLen := rfl
@[simp] theorem resetCore_host : (resetCore s).host = s.host := rfl
@[simp] theorem resetCore_answers : (resetCore s).answers = s.answers := rfl
@[simp] theorem resetCore_draws : (resetCore s).draws = s.draws := rfl
@[simp] theorem resetCore_reply : (resetCore s).reply = s.reply := rfl
@[simp] theorem resetCore_tick : (resetCore s).tick = s.tick + 1 := rfl

@[simp] theorem latchDivision_ibuf (d g : Bits) : (latchDivision d g s).ibuf = s.ibuf := rfl
@[simp] theorem latchDivision_obuf (d g : Bits) : (latchDivision d g s).obuf = s.obuf := rfl
@[simp] theorem latchDivision_valid (d g : Bits) : (latchDivision d g s).valid = s.valid := rfl
@[simp] theorem latchDivision_err (d g : Bits) : (latchDivision d g s).err = s.err := rfl
@[simp] theorem latchDivision_acc (d g : Bits) : (latchDivision d g s).acc = s.acc := rfl
@[simp] theorem latchDivision_sr (d g : Bits) : (latchDivision d g s).sr = shiftRegisterAfter d g := rfl
@[simp] theorem latchDivision_gLatch (d g : Bits) : (latchDivision d g s).gLatch = registerOf g := rfl
@[simp] theorem latchDivision_inj (d g : Bits) : (latchDivision d g s).inj = s.inj := rfl
@[simp] theorem latchDivision_maxLen (d g : Bits) : (latchDivision d g s).maxLen = s.maxLen := rfl
@[simp] theorem latchDivision_host (d g : Bits) : (latchDivision d g s).host = s.host := rfl
@[simp] theorem latchDivision_answers (d g : Bits) : (latchDivision d g s).answers = s.answers := rfl
@[simp] theorem latchDivision_draws (d g : Bits) : (latchDivision d g s).draws = s.draws := rfl
@[simp] theorem latchDivision_reply (d g : Bits) : (latchDivision d g s).reply = s.reply := rfl
@[simp] theorem latchDivision_tick (d g : Bits) : (latchDivision d g s).tick = s.tick := rfl

@[simp] theorem recordDraw_ibuf (q : DrawRequest) (r : Nat) : (recordDraw q r s).ibuf = s.ibuf := rfl
@[simp] theorem recordDraw_obuf (q : DrawRequest) (r : Nat) : (recordDraw q r s).obuf = s.obuf := rfl
@[simp] theorem recordDraw_valid (q : DrawRequest) (r : Nat) : (recordDraw q r s).valid = s.valid := rfl
@[simp] theorem recordDraw_err (q : DrawRequest) (r : Nat) : (recordDraw q r s).err = s.err := rfl
@[simp] theorem recordDraw_acc (q : DrawRequest) (r : Nat) : (recordDraw q r s).acc = s.acc := rfl
@[simp] theorem recordDraw_sr (q : DrawRequest) (r : Nat) : (recordDraw q r s).sr = s.sr := rfl
@[simp] theorem recordDraw_gLatch (q : DrawRequest) (r : Nat) : (recordDraw q r s).gLatch = s.gLatch := rfl
@[simp] theorem recordDraw_inj (q : DrawRequest) (r : Nat) : (recordDraw q r s).inj = s.inj := rfl
@[simp] theorem recordDraw_maxLen (q : DrawRequest) (r : Nat) : (recordDraw q r s).maxLen = s.maxLen := rfl
@[simp] theorem recordDraw_host (q : DrawRequest) (r : Nat) : (recordDraw q r s).host = s.host := rfl
@[simp] theorem recordDraw_answers (q : DrawRequest) (r : Nat) : (recordDraw q r s).answers = s.answers := rfl
@[simp] theorem recordDraw_draws (q : DrawRequest) (r : Nat) : (recordDraw q r s).draws = s.draws ++ [⟨q, r⟩] := rfl
@[simp] theorem recordDraw_reply (q : DrawRequest) (r : Nat) : (recordDraw q r s).reply = s.reply := rfl
@[simp] theorem recordDraw_tick (q : DrawRequest) (r : Nat) : (recordDraw q r s).tick = s.tick := rfl

@[simp] theorem finishInj_ibuf (run : InjRun) (as : List Nat) : (finishInj run as s).ibuf = s.ibuf := rfl
@[simp] theorem finishInj_obuf (run : InjRun) (as : List Nat) : (finishInj run as s).obuf = injWork run := rfl
@[simp] theorem finishInj_valid (run : InjRun) (as : List Nat) : (finishInj run as s).valid = s.valid := rfl
@[simp] theorem finishInj_err (run : InjRun) (as : List Nat) : (finishInj run as s).err = s.err := rfl
@[simp] theorem finishInj_acc (run : InjRun) (as : List Nat) : (finishInj run as s).acc = s.acc := rfl
@[simp] theorem finishInj_sr (run : InjRun) (as : List Nat) : (finishInj run as s).sr = s.sr := rfl
@[simp] theorem finishInj_gLatch (run : InjRun) (as : List Nat) : (finishInj run as s).gLatch = s.gLatch := rfl
@[simp] theorem finishInj_inj (run : InjRun) (as : List Nat) : (finishInj run as s).inj = none := rfl
@[simp] theorem finishInj_maxLen (run : InjRun) (as : List Nat) : (finishInj run as s).maxLen = s.maxLen := rfl
@[simp] theorem finishInj_host (run : InjRun) (as : List Nat) : (finishInj run as s).host = s.host := rfl
@[simp] theorem finishInj_answers (run : InjRun) (as : List Nat) : (finishInj run as s).answers = as := rfl
@[simp] theorem finishInj_draws (run : InjRun) (as : List Nat) : (finishInj run as s).draws = s.draws := rfl
@[simp] theorem finishInj_reply (run : InjRun) (as : List Nat) : (finishInj run as s).reply = s.reply := rfl
@[simp] theorem finishInj_tick (run : InjRun) (as : List Nat) : (finishInj run as s).tick = s.tick := rfl

@[simp] theorem awaitAnswer_ibuf (run : InjRun) : (awaitAnswer run s).ibuf = s.ibuf := rfl
@[simp] theorem awaitAnswer_obuf (run : InjRun) : (awaitAnswer run s).obuf = s.obuf := rfl
@[simp] theorem awaitAnswer_valid (run : InjRun) : (awaitAnswer run s).valid = s.valid := rfl
@[simp] theorem awaitAnswer_err (run : InjRun) : (awaitAnswer run s).err = s.err := rfl
@[simp] theorem awaitAnswer_acc (run : InjRun) : (awaitAnswer run s).acc = s.acc := rfl
@[simp] theorem awaitAnswer_sr (run : InjRun) : (awaitAnswer run s).sr = s.sr := rfl
@[simp] theorem awaitAnswer_gLatch (run : InjRun) : (awaitAnswer run s).gLatch = s.gLatch := rfl
@[simp] theorem awaitAnswer_inj (run : InjRun) : (awaitAnswer run s).inj = some run := rfl
@[simp] theorem awaitAnswer_maxLen (run : InjRun) : (awaitAnswer run s).maxLen = s.maxLen := rfl
@[simp] theorem awaitAnswer_host (run : InjRun) : (awaitAnswer run s).host = s.host := rfl
@[simp] theorem awaitAnswer_answers (run : InjRun) : (awaitAnswer run s).answers = [] := rfl
@[simp] theorem awaitAnswer_draws (run : InjRun) : (awaitAnswer run s).draws = s.draws := rfl
@[simp] theorem awaitAnswer_reply (run : InjRun) : (awaitAnswer run s).reply = s.reply := rfl
@[simp] theorem awaitAnswer_tick (run : InjRun) : (awaitAnswer run s).tick = s.tick := rfl

@[simp] theorem replyWord_ibuf (w : BitVec 32) : (replyWord w s).ibuf = s.ibuf := rfl
@[simp] theorem replyWord_obuf (w : BitVec 32) : (replyWord w s).obuf = s.obuf := rfl
@[simp] theorem replyWord_valid (w : BitVec 32) : (replyWord w s).valid = s.valid := rfl
@[simp] theorem replyWord_err (w : BitVec 32) : (replyWord w s).err = s.err := rfl
@[simp] theorem replyWord_acc (w : BitVec 32) : (replyWord w s).acc = s.acc := rfl
@[simp] theorem replyWord_sr (w : BitVec 32) : (replyWord w s).sr = s.sr := rfl
@[simp] theorem replyWord_gLatch (w : BitVec 32) : (replyWord w s).gLatch = s.gLatch := rfl
@[simp] theorem replyWord_inj (w : BitVec 32) : (replyWord w s).inj = s.inj := rfl
@[simp] theorem replyWord_maxLen (w : BitVec 32) : (replyWord w s).maxLen = s.maxLen := rfl
@[simp] theorem replyWord_host (w : BitVec 32) : (replyWord w s).host = s.host := rfl
@[simp] theorem replyWord_answers (w : BitVec 32) : (replyWord w s).answers = s.answers := rfl
@[simp] theorem replyWord_draws (w : BitVec 32) : (replyWord w s).draws = s.draws := rfl
@[simp] theorem replyWord_reply (w : BitVec 32) : (replyWord w s).reply = .word w := rfl
@[simp] theorem replyWord_tick (w : BitVec 32) : (replyWord w s).tick = s.tick := rfl

end Sys2Proof.Machine
end

