-- ==== Sys2Proof/Laws/Ops.lean ====
section
/-! SUPPORT. For each shared operation, once, everything it can do: fault entry (R210), the polynomial
check (R203), the draws of a command (R172), the boundary (R33) and the command port (R211). The
provers cite these and unfold none of them. -/

namespace Sys2Proof.Machine

variable (s : State)

theorem recordFault_of_none (f : CoreFault) (h : s.err = none) :
    recordFault f s = { s with err := some f } := by
  simp [recordFault, h]

theorem recordFault_of_some (f g : CoreFault) (h : s.err = some g) : recordFault f s = s := by
  simp [recordFault, h]

theorem recordFault_cases (f : CoreFault) :
    (s.err = none ∧ recordFault f s = { s with err := some f }) ∨
      (s.err ≠ none ∧ recordFault f s = s) := by
  cases h : s.err with
  | none => exact .inl ⟨rfl, recordFault_of_none s f h⟩
  | some g => exact .inr ⟨nofun, recordFault_of_some s f g h⟩

@[simp] theorem recordFault_ibuf (f : CoreFault) : (recordFault f s).ibuf = s.ibuf := by
  unfold recordFault; split <;> rfl
@[simp] theorem recordFault_obuf (f : CoreFault) : (recordFault f s).obuf = s.obuf := by
  unfold recordFault; split <;> rfl
@[simp] theorem recordFault_valid (f : CoreFault) : (recordFault f s).valid = s.valid := by
  unfold recordFault; split <;> rfl
@[simp] theorem recordFault_acc (f : CoreFault) : (recordFault f s).acc = s.acc := by
  unfold recordFault; split <;> rfl
@[simp] theorem recordFault_sr (f : CoreFault) : (recordFault f s).sr = s.sr := by
  unfold recordFault; split <;> rfl
@[simp] theorem recordFault_gLatch (f : CoreFault) : (recordFault f s).gLatch = s.gLatch := by
  unfold recordFault; split <;> rfl
@[simp] theorem recordFault_inj (f : CoreFault) : (recordFault f s).inj = s.inj := by
  unfold recordFault; split <;> rfl
@[simp] theorem recordFault_maxLen (f : CoreFault) : (recordFault f s).maxLen = s.maxLen := by
  unfold recordFault; split <;> rfl
@[simp] theorem recordFault_host (f : CoreFault) : (recordFault f s).host = s.host := by
  unfold recordFault; split <;> rfl
@[simp] theorem recordFault_answers (f : CoreFault) : (recordFault f s).answers = s.answers := by
  unfold recordFault; split <;> rfl
@[simp] theorem recordFault_draws (f : CoreFault) : (recordFault f s).draws = s.draws := by
  unfold recordFault; split <;> rfl
@[simp] theorem recordFault_reply (f : CoreFault) : (recordFault f s).reply = s.reply := by
  unfold recordFault; split <;> rfl
@[simp] theorem recordFault_tick (f : CoreFault) : (recordFault f s).tick = s.tick := by
  unfold recordFault; split <;> rfl

/-- A fault is recorded afterwards, whatever was before. -/
theorem recordFault_err_ne (f : CoreFault) : (recordFault f s).err ≠ none := by
  obtain ⟨_, h⟩ | ⟨h, k⟩ := recordFault_cases s f
  · simp [h]
  · simpa [k] using h

theorem withPoly_of_valid (p : Poly) (run : Bits → Outcome) (h : validPattern (polyPattern p) = true) :
    withPoly p s run = run (polyPattern p) := if_pos h

theorem withPoly_of_invalid (p : Poly) (run : Bits → Outcome)
    (h : validPattern (polyPattern p) = false) : withPoly p s run = raise .poly s := by
  simp [withPoly, h]

/-- The checked polynomial has a first bit, and it is 1 (R142). -/
theorem validPattern_iff (g : Bits) : validPattern g = true ↔ ∃ rest, g = true :: rest := by
  cases g with
  | nil => simp [validPattern]
  | cons b rest => cases b <;> simp [validPattern]

theorem runDraws_finished (as : List Nat) (run : InjRun) (h : injRequest run = none) :
    runDraws as run s = finishInj run as s := by
  cases as <;> simp [runDraws, h]

theorem runDraws_silent (run : InjRun) (q : DrawRequest) (h : injRequest run = some q) :
    runDraws [] run s = awaitAnswer run s := by
  simp [runDraws, h]

theorem runDraws_answered (r : Nat) (as : List Nat) (run : InjRun) (q : DrawRequest)
    (h : injRequest run = some q) (k : inRange q r = true) :
    runDraws (r :: as) run s = runDraws as (injAccept run r) (recordDraw q r s) := by
  simp [runDraws, h, k]

theorem runDraws_rejected (r : Nat) (as : List Nat) (run : InjRun) (q : DrawRequest)
    (h : injRequest run = some q) (k : inRange q r = false) :
    runDraws (r :: as) run s = rejectAnswer as (recordDraw q r s) := by
  simp [runDraws, h, k]

/-- What the draws of a command never touch: the operand, VALID, the hidden registers, the
parameter, the host's side, the free values (R180, R210). -/
structure DrawsKeep (s t : State) : Prop where
  ibuf : t.ibuf = s.ibuf
  valid : t.valid = s.valid
  acc : t.acc = s.acc
  sr : t.sr = s.sr
  gLatch : t.gLatch = s.gLatch
  maxLen : t.maxLen = s.maxLen
  host : t.host = s.host
  reply : t.reply = s.reply
  tick : t.tick = s.tick

theorem runDraws_keeps (as : List Nat) (run : InjRun) : DrawsKeep s (runDraws as run s) := by
  induction as generalizing run s with
  | nil =>
    cases h : injRequest run with
    | none => rw [runDraws_finished s [] run h]; constructor <;> rfl
    | some q => rw [runDraws_silent s run q h]; constructor <;> rfl
  | cons r as ih =>
    cases h : injRequest run with
    | none => rw [runDraws_finished s (r :: as) run h]; constructor <;> rfl
    | some q =>
      cases k : inRange q r with
      | true =>
        rw [runDraws_answered s r as run q h k]
        have keep := ih (s := recordDraw q r s) (run := injAccept run r)
        exact ⟨keep.ibuf, keep.valid, keep.acc, keep.sr, keep.gLatch, keep.maxLen, keep.host,
          keep.reply, keep.tick⟩
      | false =>
        rw [runDraws_rejected s r as run q h k]
        constructor <;> simp [rejectAnswer]

@[simp] theorem injWork_accept_length (run : InjRun) (r : Nat) :
    (injWork (injAccept run r)).length = (injWork run).length := by
  cases run with
  | burst pos left work => simp only [injAccept, injWork]; split <;> simp
  | _ => simp [injAccept, injWork]

@[simp] theorem afterCommand_next : afterCommand (.next s) = .next (settle s) := rfl

theorem afterCommand_eq_next (o : Outcome) (t : State) :
    afterCommand o = .next t ↔ ∃ u, o = .next u ∧ t = settle u := by
  cases o <;> simp [afterCommand, eq_comm]

theorem acceptCommand_ready (d : Descriptor) (h : s.err = none) :
    acceptCommand d s = afterCommand (runDescriptor d s) := by
  simp [acceptCommand, h]

theorem acceptCommand_faulted (d : Descriptor) (f : CoreFault) (h : s.err = some f) :
    acceptCommand d s = .next s := by
  simp [acceptCommand, h]

theorem runDescriptor_command (d : Descriptor) (i : Instr) (h : decode d = .command i) :
    runDescriptor d s = exec i s := by
  simp [runDescriptor, h]

theorem runDescriptor_illegal (d : Descriptor) (why : Illegal) (h : decode d = .illegal why) :
    runDescriptor d s = raise .illegal s := by
  simp [runDescriptor, h]

end Sys2Proof.Machine
end

