-- ==== Sys2Proof/Laws/PerInstr.lean ====
section
/-! SUPPORT. The family EncodedFields: the descriptor of a command holds its opcode (R72), and ZERO is
0 in every command (R73). -/

namespace Sys2Proof.Laws.EncodedFields

def Statement (i : Instr) : Prop :=
  (fieldsOf (encode i)).op = opcodeByte (opcodeOfInstr i) ∧ (fieldsOf (encode i)).zero = 0

theorem of_fields (i : Instr) (op : (encodeFields i).op = opcodeByte (opcodeOfInstr i))
    (zero : (encodeFields i).zero = 0) : Statement i := by
  unfold Statement encode
  rw [fieldsOf_ofFields]
  exact ⟨op, zero⟩

theorem nop : Statement .nop := of_fields _ rfl rfl
theorem clr : Statement .clr := of_fields _ rfl rfl
theorem push (bits : Bits) : Statement (.push bits) := of_fields _ rfl rfl
theorem mov : Statement .mov := of_fields _ rfl rfl
theorem cksGen : Statement .cksGen := of_fields _ rfl rfl
theorem cksVfy : Statement .cksVfy := of_fields _ rfl rfl
theorem crcDiv (poly : Poly) : Statement (.crcDiv poly) := of_fields _ rfl rfl
theorem crcGen (poly : Poly) : Statement (.crcGen poly) := of_fields _ rfl rfl
theorem crcVfy (poly : Poly) : Statement (.crcVfy poly) := of_fields _ rfl rfl
theorem injRnd (count : Imm) : Statement (.injRnd count) := of_fields _ rfl rfl
theorem injBst (size : Imm) : Statement (.injBst size) := of_fields _ rfl rfl
theorem injOdd : Statement .injOdd := of_fields _ rfl rfl
theorem injUnd (poly : Poly) (shift : Imm) : Statement (.injUnd poly shift) := of_fields _ rfl rfl

end Sys2Proof.Laws.EncodedFields
end

