-- ==== Sys2Proof/Tests/Slice0.lean ====
section
/-! SUPPORT. The model's own tests: ill-formed terms refused, a descriptor of every command written
out from R71 to R77, one or two small steps per command with the results of 95_test_vectors.md, and
for every statement with hypotheses a state and operands that meet them. -/

namespace Sys2Proof.Tests

open Sys2Proof.Machine

/-- The state right after reset with these buffers and answers. -/
def small (ibuf obuf : String) (answers : List Nat) : State :=
  { State.reset with ibuf := bitsOfString ibuf, obuf := bitsOfString obuf, answers := answers }

def nextOf : Outcome → Option State
  | .next t => some t
  | .fault _ => none
  | .refused _ => none

def obufOf (o : Outcome) : Option Bits := (nextOf o).map State.obuf
def ibufOf (o : Outcome) : Option Bits := (nextOf o).map State.ibuf
def validOf (o : Outcome) : Option Bool := (nextOf o).map State.valid
def statusOf (o : Outcome) : Option (BitVec 32) := (nextOf o).map statusWord

def bits (s : String) : Bits := bitsOfString s
def lit (s : String) : Poly := .literal (bits s)

/-! ## Well-formedness: one ill-formed term for each check -/

theorem test_push_of_65_bits_ill_formed : (Instr.push (zeros 65)).wellFormed = false := by decide
theorem test_div_by_65_bits_ill_formed :
    (Instr.crcDiv (.literal (zeros 65))).wellFormed = false := by decide
theorem test_gen_by_65_bits_ill_formed :
    (Instr.crcGen (.literal (zeros 65))).wellFormed = false := by decide
theorem test_vfy_by_65_bits_ill_formed :
    (Instr.crcVfy (.literal (zeros 65))).wellFormed = false := by decide
theorem test_und_by_65_bits_ill_formed :
    (Instr.injUnd (.literal (zeros 65)) 0).wellFormed = false := by decide
theorem test_push_of_64_bits_well_formed : (Instr.push (zeros 64)).wellFormed = true := by decide

/-! ## Decoding: descriptors written out from R71 to R77 (T350), and illegal ones (T351) -/

theorem test_decode_nop : decode 0x00000000000000000000000000000000 = .command .nop := by decide
theorem test_decode_clr : decode 0x01000000000000000000000000000000 = .command .clr := by decide
theorem test_decode_push :
    decode 0x020080000000000000000000000000B3 = .command (.push (bits "10110011")) := by decide
theorem test_decode_push_of_64_ones :
    decode 0x0204000000000000FFFFFFFFFFFFFFFF =
      .command (.push (List.replicate 64 true)) := by decide
theorem test_decode_mov : decode 0x03000000000000000000000000000000 = .command .mov := by decide
theorem test_decode_cksGen : decode 0x10000000000000000000000000000000 = .command .cksGen := by decide
theorem test_decode_cksVfy : decode 0x11000000000000000000000000000000 = .command .cksVfy := by decide
theorem test_decode_crcDiv :
    decode 0x2010400000000000000000000000000B = .command (.crcDiv (lit "1011")) := by decide
theorem test_decode_crcGen_literal :
    decode 0x21111000000000000000000000018005 =
      .command (.crcGen (lit "11000000000000101")) := by decide
theorem test_decode_crcGen_named :
    decode 0x21300000000000000000000000000000 = .command (.crcGen .crc10) ∧
    decode 0x21400000000000000000000000000000 = .command (.crcGen .crc16) ∧
    decode 0x21500000000000000000000000000000 = .command (.crcGen .crc32) := by decide
theorem test_decode_crcVfy :
    decode 0x22200000000000000000000000000000 = .command (.crcVfy .crc8) := by decide
theorem test_decode_injRnd :
    decode 0x30000000000000020000000000000000 = .command (.injRnd 2) := by decide
theorem test_decode_injBst :
    decode 0x31000000000000030000000000000000 = .command (.injBst 3) := by decide
theorem test_decode_injOdd : decode 0x32000000000000000000000000000000 = .command .injOdd := by decide
theorem test_decode_injUnd :
    decode 0x3310400000000002000000000000000B = .command (.injUnd (lit "1011") 2) := by decide

theorem test_illegal_reserved_opcode :
    decode 0x05000000000000000000000000000000 = .illegal .reservedOpcode := by decide
theorem test_illegal_reserved_bits :
    decode 0x00000001000000000000000000000000 = .illegal .reservedBits := by decide
theorem test_illegal_unused_field :
    decode 0x10000000000000010000000000000000 = .illegal .unusedField := by decide
theorem test_illegal_selector :
    decode 0x21000000000000000000000000000000 = .illegal .reservedSelector ∧
    decode 0x21600000000000000000000000000000 = .illegal .reservedSelector := by decide
theorem test_illegal_named_with_literal :
    decode 0x21209000000000000000000000000107 = .illegal .namedWithLiteral := by decide
theorem test_illegal_push_of_65 :
    decode 0x02041000000000000000000000000000 = .illegal .literalTooLong := by decide
theorem test_illegal_data_above_length :
    decode 0x21103000000000000000000000000013 = .illegal .dataAboveLength := by decide
theorem test_table_word : decodeTableWord 128 0x02001000000000000000000000000001 =
    some (.push [true]) := by decide
theorem test_encode : encode (.injUnd (lit "1011") 2) = 0x3310400000000002000000000000000B := by
  decide

/-! ## Primitives (T310 to T312) -/

theorem test_padLeft : padLeft (bits "101") 16 = bits "0000000000000101" ∧ padLeft [] 16 = [] := by
  decide
theorem test_chunk : chunk (bits "10110001") 4 = [bits "1011", bits "0001"] ∧ chunk [] 4 = [] := by
  decide
theorem test_toBits : toBits 5 4 = some (bits "0101") ∧ toBits 16 4 = none ∧
    toBits 0 0 = some [] := by decide
theorem test_fold : fold 0 4 = 0 ∧ fold 15 4 = 15 ∧ fold 16 4 = 1 ∧ fold 31 4 = 1 ∧ fold 46 4 = 1 ∧
    fold 59 4 = 14 ∧ fold 60 4 = 15 ∧ fold 75 4 = 15 := by decide
theorem test_register_trace_steps : xorDivide (bits "1101000") (bits "1011") = bits "001" ∧
    divisionSteps (bits "1101000") (bits "1011") = 4 := by decide

/-! ## Commands -/

theorem test_nop : ibufOf (exec .nop (small "1011" "0" [])) = some (bits "1011") := by decide
theorem test_clr : ibufOf (exec .clr (small "1011" "0" [])) = some [] := by decide
theorem test_push : ibufOf (exec (.push (bits "0011")) (small "1" "" [])) = some (bits "10011") := by
  decide
theorem test_push_cap :
    statusOf (exec (.push (zeros 5)) { small "" "" [] with ibuf := zeros 16, maxLen := 20 }) =
      some 0x60 := by decide
theorem test_mov : ibufOf (exec .mov (small "" "10110" [])) = some (bits "10110") := by decide
theorem test_cksGen_two_pass_fold :
    obufOf (exec .cksGen (small "1111111100010000" "" [])) = some (bits "11111111000100001110") := by
  decide
theorem test_cksGen_cap :
    statusOf (exec .cksGen { small "" "" [] with ibuf := zeros 17, maxLen := 20 }) =
      some 0x60 := by decide
theorem test_cksVfy_pads_to_20 : validOf (exec .cksVfy (small "1111" "" [])) = some true ∧
    validOf (exec .cksVfy (small "00000000000000000000" "" [])) = some false := by decide
theorem test_cksVfy_word_boundaries :
    validOf (exec .cksVfy (small "000000000000000011110" "" [])) = some false := by decide
theorem test_crcDiv : obufOf (exec (.crcDiv (lit "1011")) (small "1101000" "" [])) =
    some (bits "001") := by decide
theorem test_crcDiv_short : statusOf (exec (.crcDiv (lit "1011")) (small "" "" [])) = some 0x50 := by
  decide
theorem test_crcGen_named : obufOf (exec (.crcGen .crc8) (small "10110011" "" [])) =
    some (bits "1011001100010000") := by decide
theorem test_crcGen_crc10 : obufOf (exec (.crcGen .crc10) (small "1101" "" [])) =
    some (bits "11011000011011") := by decide
theorem test_crcVfy : validOf (exec (.crcVfy (lit "1011")) (small "1101001" "" [])) = some true ∧
    validOf (exec (.crcVfy (lit "1011")) (small "1101011" "" [])) = some false := by decide
theorem test_crcVfy_poly_before_empty :
    statusOf (exec (.crcVfy (lit "011")) (small "" "" [])) = some 0x30 := by decide
theorem test_injRnd : obufOf (exec (.injRnd 2) (small "10110" "" [3, 0])) = some (bits "00100") ∧
    obufOf (exec (.injRnd 2) (small "10110" "" [3, 3])) = some (bits "10110") := by decide
theorem test_injRnd_out_of_range : statusOf (exec (.injRnd 2) (small "1010" "" [1, 4])) =
    some 0x70 := by decide
theorem test_injBst : obufOf (exec (.injBst 3) (small "00000000" "" [2, 1, 0, 1])) =
    some (bits "00101000") := by decide
theorem test_injBst_of_nothing_draws_once :
    (nextOf (exec (.injBst 0) (small "1010" "" [4]))).map State.draws =
      some [⟨⟨.int, 0, 4⟩, 4⟩] := by decide
theorem test_injOdd : obufOf (exec .injOdd (small "0000" "" [1, 2, 0, 1])) = some (bits "1011") := by
  decide
theorem test_injOdd_draws : (nextOf (exec .injOdd (small "0000" "" [1, 2, 0, 1]))).map State.draws =
    some [⟨⟨.int, 0, 1⟩, 1⟩, ⟨⟨.int, 0, 3⟩, 2⟩, ⟨⟨.int, 0, 2⟩, 0⟩, ⟨⟨.int, 0, 1⟩, 1⟩] := by decide
theorem test_injUnd_shifted : obufOf (exec (.injUnd (lit "1011") 2) (small "1101001" "" [])) =
    some (bits "1000101") := by decide
theorem test_injUnd_clipped : obufOf (exec (.injUnd (lit "1011") 4) (small "1101001" "" [])) =
    some (bits "1011001") ∧
    obufOf (exec (.injUnd (lit "1011") 0) (small "101" "" [])) = some (bits "110") := by decide

/-! ## Ports, the FAULT state, waiting, reset (T351, T363) -/

theorem test_step_runs_a_descriptor :
    (nextOf (step (State.reset.withFetchWord 128 0x02001000000000000000000000000001))).map
      State.ibuf = some [true] := by decide
theorem test_step_illegal :
    statusOf (step (State.reset.withFetchWord 128 0x05000000000000000000000000000000)) =
      some 0x20 := by decide
theorem test_fault_state_ignores_clr :
    ibufOf (step { small "1" "11" [] with
      err := some .range, host := [.command 0x01000000000000000000000000000000] }) =
      some [true] := by decide
theorem test_silent_source_waits :
    (nextOf (exec (.injRnd 2) (small "1010" "" [1]))).map State.inj =
      some (some (.flips 1 (bits "1110"))) := by decide
theorem test_late_answer_completes :
    obufOf (step { small "1010" "" [] with
      inj := some (.flips 1 (bits "1110")), host := [.attach [0]] }) = some (bits "0110") := by
  decide
theorem test_reset_ends_waiting :
    (nextOf (step { small "1010" "" [] with
      inj := some (.flips 1 (bits "1110")), host := [.reset] })).map
      (fun t => (t.inj, t.ibuf)) = some (none, []) := by decide
theorem test_odata : (nextOf (step { small "" "10" [] with host := [.readOdata 0] })).map
    State.reply = some (.bit true) := by decide
theorem test_adapter :
    readMessage "crc:1011:0:1101001".toList =
      .commands [.clr, .push (bits "1101001"), .crcVfy (lit "1011")] ∧
    readMessage "parity::0:1101".toList = .unknownMethodError ∧
    readMessage "parity:1101".toList = .formatError := by decide
theorem test_assembler : assembleLine "INJ.UND CRC-8, 7" = some [.injUnd .crc8 7] := by decide

/-! ## Witnesses: each statement's hypotheses are met together, each clause at a boundary -/

theorem answers_next (o : Outcome) (p : State → Bool) (h : (nextOf o).any p = true) :
    ∃ t, o = .next t ∧ p t = true := by
  cases o with
  | next t => exact ⟨t, rfl, h⟩
  | fault r => exact absurd h nofun
  | refused r => exact absurd h nofun

/-- A waiting INJ.RND over four bits, one answer still to come. -/
def waiting (events : List HostEvent) : State :=
  { small "1010" "1" [] with inj := some (.flips 1 (bits "1110")), host := events }

/-- The FAULT state after RANGE. -/
def faulted (events : List HostEvent) : State :=
  { small "1" "11" [] with err := some .range, host := events }

/-- The least MAXLEN, with an operand of `len` zeros. -/
def least (len : Nat) : State := { State.resetWith 20 with ibuf := zeros len }

theorem inv_small_waiting : Inv (waiting []) :=
  ⟨by unfold maxLenOk; decide, by decide, by decide,
    by intro run h; cases h; exact ⟨by unfold runOk; decide, rfl, rfl⟩, nofun⟩

theorem inv_least : Inv (least 20) :=
  ⟨by unfold maxLenOk; decide, by decide, by decide, nofun, nofun⟩

theorem ready_small (i o : String) (as : List Nat) : Ready (small i o as) := ⟨rfl, rfl⟩
theorem ready_least (len : Nat) : Ready (least len) := ⟨rfl, rfl⟩

theorem witness_DecodeOfEncodeIsTheCommand :
    (Instr.push (zeros 64)).wellFormed = true ∧ (Instr.crcGen (.literal [])).wellFormed = true ∧
    (Instr.injUnd (.literal (zeros 64)) 0xFFFFFFFF).wellFormed = true := by decide

theorem witness_EncodeOfDecodeIsTheDescriptor :
    decode 0x0204000000000000FFFFFFFFFFFFFFFF = .command (.push (List.replicate 64 true)) := by decide

/-- One descriptor for each condition of R78, (a) to (g), and a state that accepts it. -/
theorem witness_IllegalDescriptorsAreThoseOfTheRule :
    (fieldsOf 0x34000000000000000000000000000000).op = 0x34 ∧
    (fieldsOf 0x00000001000000000000000000000000).zero ≠ 0 ∧
    ((fieldsOf 0x10000000000000010000000000000000).op = 0x10 ∧
      (fieldsOf 0x10000000000000010000000000000000).imm ≠ 0) ∧
    ((fieldsOf 0x21600000000000000000000000000000).op = 0x21 ∧
      6 ≤ (fieldsOf 0x21600000000000000000000000000000).psel.toNat) ∧
    ((fieldsOf 0x21501000000000000000000000000000).psel = 5 ∧
      (fieldsOf 0x21501000000000000000000000000000).n ≠ 0) ∧
    ((fieldsOf 0x02041000000000000000000000000000).op = 0x02 ∧
      64 < (fieldsOf 0x02041000000000000000000000000000).n.toNat) ∧
    ((fieldsOf 0x0203F000000000008000000000000000).op = 0x02 ∧
      (fieldsOf 0x0203F000000000008000000000000000).n = 63 ∧
      (fieldsOf 0x0203F000000000008000000000000000).data.getLsbD 63 = true) ∧
    Ready State.reset := ⟨by decide, by decide, by decide, by decide, by decide, by decide,
      by decide, rfl, rfl⟩

theorem witness_LiteralBitsComeFromData :
    decode 0x02000000000000000000000000000000 = .command (.push []) ∧
    decode 0x0204000000000000FFFFFFFFFFFFFFFF = .command (.push (List.replicate 64 true)) ∧
    decode 0x20101000000000000000000000000001 = .command (.crcDiv (.literal [true])) ∧
    decode 0x21101000000000000000000000000001 = .command (.crcGen (.literal [true])) ∧
    decode 0x22101000000000000000000000000001 = .command (.crcVfy (.literal [true])) ∧
    decode 0x33101000000000000000000000000001 = .command (.injUnd (.literal [true]) 0) := by decide

theorem witness_StepRunsTheDecodedCommand : ∃ (s : State) (d : Descriptor),
    Ready s ∧ s.host = [.command d] ∧ decode d = .command .clr :=
  ⟨{ small "1" "" [] with host := [.command 0x01000000000000000000000000000000] }, _, ⟨rfl, rfl⟩,
    rfl, by decide⟩

theorem witness_ResetPutsEveryRegisterAtItsValue :
    (faulted [.reset]).host = [.reset] ∧ (waiting [.reset, .readIlen]).host = [.reset, .readIlen] :=
  ⟨rfl, rfl⟩

theorem witness_ResetMeetsTheInvariant : maxLenOk 20 ∧ maxLenOk (2 ^ 32 - 1) := by
  unfold maxLenOk; decide

theorem witness_EveryStepKeepsTheInvariant :
    (Inv (least 20) ∧ ∃ t, step (least 20) = .next t) ∧
    (∃ s : State, Inv s ∧ s.inj ≠ none ∧ ∃ t, step s = .next t) := by
  refine ⟨⟨inv_least, ?_⟩, waiting [.attach [3]], inv_small_waiting, nofun, ?_⟩
  · obtain ⟨t, h, _⟩ := answers_next (step (least 20)) (fun _ => true) (by decide)
    exact ⟨t, h⟩
  · obtain ⟨t, h, _⟩ := answers_next (step (waiting [.attach [3]])) (fun _ => true) (by decide)
    exact ⟨t, h⟩

theorem witness_FaultStateIgnoresAllButReset : ∀ e : HostEvent,
    (faulted [e]).err = some .range ∧ (faulted [e]).inj = none ∧ (faulted [e]).host = [e] ∧
      (faulted [e]).obuf[1]? = some true := fun _ => ⟨rfl, rfl, rfl, rfl⟩

theorem witness_FaultChangesOnlyErr : ∃ (d : Descriptor) (s t : State), Ready s ∧
    runDescriptor d s = .next t ∧ t.err = some .rng := by
  obtain ⟨t, h, k⟩ := answers_next
    (runDescriptor 0x30000000000000020000000000000000 (small "1010" "" [3, 4]))
    (fun t => t.err == some .rng) (by decide)
  exact ⟨_, _, t, ready_small _ _ _, h, by simpa using k⟩

theorem witness_OverflowIsNeverRaised : ∃ t,
    runDescriptor 0x10000000000000000000000000000000 (small "1111" "" []) = .next t ∧
      Ready (small "1111" "" []) := by
  obtain ⟨t, h, _⟩ := answers_next
    (runDescriptor 0x10000000000000000000000000000000 (small "1111" "" [])) (fun _ => true)
    (by decide)
  exact ⟨t, h, rfl, rfl⟩

/-- For each register a command that changes it. -/
theorem witness_EachRegisterIsWrittenOnlyByItsCommands :
    (∃ t, exec .clr (small "1" "" []) = .next t ∧ (t.ibuf != bits "1") = true) ∧
    (∃ t, exec .cksGen (small "1" "" []) = .next t ∧ (t.obuf != [] && t.acc != 0) = true) ∧
    (∃ t, exec .cksVfy (small "" "" []) = .next t ∧ (t.valid != false) = true) ∧
    (∃ t, exec (.crcDiv (lit "11")) (small "10" "" []) = .next t ∧
      (t.sr != 0 && t.gLatch != 0) = true) ∧
    (∃ t, exec (.injRnd 1) (small "1" "" [0]) = .next t ∧
      (t.answers != [0] && t.draws != []) = true) :=
  ⟨answers_next _ _ (by decide), answers_next _ _ (by decide), answers_next _ _ (by decide),
    answers_next _ _ (by decide), answers_next _ _ (by decide)⟩

theorem witness_EveryCommandAnswersANextState : (small "" "" []).inj = none := rfl

theorem witness_HiddenRegistersAreNeverRead :
    SameButHidden (small "1" "" []) { small "1" "" [] with acc := 7, sr := 9, gLatch := 1 } ∧
    SameButHidden (waiting []) { waiting [] with acc := 7 } ∧
    SameButHidden (waiting [.readIlen]) { waiting [.readIlen] with sr := 7 } := ⟨rfl, rfl, rfl⟩

theorem witness_LengthRegistersAreTheLengths : Inv (least 20) := inv_least

theorem witness_PortReadsAnswerWithoutEffect : ∀ e : HostEvent,
    let s : State := { small "1" "10" [] with host := [e] }
    s.inj = none ∧ s.host = [e] ∧ s.obuf[1]? = some false ∧ s.obuf.length ≤ 2 :=
  fun _ => ⟨rfl, rfl, rfl, Nat.le_refl 2⟩

theorem witness_PushAppendsOrRaisesCap :
    (least 16).ibuf.length + (zeros 4).length ≤ (least 16).maxLen ∧
    (least 16).maxLen < (least 16).ibuf.length + (zeros 5).length ∧ (least 16).err = none := by
  decide

theorem witness_LoadLeavesTheString : Ready (least 3) ∧ (zeros 20).length ≤ (least 3).maxLen :=
  ⟨ready_least 3, by decide⟩

theorem witness_LoadOfTooLongAStringRaisesCap :
    (Ready (least 3) ∧ (least 3).maxLen < (zeros 21).length) ∧
    (Ready (State.resetWith 64) ∧ (State.resetWith 64).maxLen < (zeros 65).length) :=
  ⟨⟨ready_least 3, by decide⟩, ⟨rfl, rfl⟩, by decide⟩

/-- A literal of 65 bits cannot be encoded, so the call has no script (R75, 93 U17). -/
theorem test_script_of_call :
    scriptOfCall (.xorDivide (bits "1101") (lit "11")) =
      some [.clr, .push (bits "1101"), .crcDiv (lit "11")] ∧
    scriptOfCall (.crcVerify [] (.literal (zeros 65))) = none := by decide

/-- No blank stands between the parts: accepted by the model's choice (log 17). -/
theorem test_assemble_parts_without_blanks :
    assembleLine "PUSH\"0011\"" = some [.push [false, false, true, true]] ∧
    assembleLine "INJ.UND\"11\",2" = some [.injUnd (.literal [true, true]) 2] := by decide

theorem witness_AdapterReadsMessages :
    ':' ∉ "parity".toList ∧ "parity".toList ≠ "checksum".toList ∧ "parity".toList ≠ "crc".toList ∧
    bitsOfChars "1101".toList = some (bits "1101") ∧ bitsOfChars [] = some [] ∧
    polyNamed "CRC-8".toList = some .crc8 ∧ ':' ∉ "CRC-8".toList ∧
    "crc:1011:0".toList.count ':' = 2 := by decide

/-- A message for each of R95's refusals: a codeword character, the error field, a polynomial with
checksum, a character of a literal, a literal of 65 bits; and 64 bits are taken. -/
theorem witness_AdapterReadsMessages_refusals :
    readMessage "checksum::0:12".toList = .refused ∧ readMessage "crc:11:0:1x".toList = .refused ∧
    readMessage "checksum::2:11".toList = .refused ∧ readMessage "crc:11::11".toList = .refused ∧
    readMessage "checksum:1:0:11".toList = .refused ∧
    readMessage "crc:CRC-9:0:11".toList = .refused ∧
    crcMessage (List.replicate 65 '1') ['0'] [] = .refused ∧
    crcMessage (List.replicate 64 '1') ['0'] [] =
      .commands [.clr, .crcVfy (.literal (List.replicate 64 true))] ∧
    transactionsOf (readMessage "checksum::0:12".toList) = [] := by decide

theorem witness_PadLeftIsMinimalAndChunkIsExact : 1 ≤ 16 ∧ 4 ∣ (bits "10110001").length := by decide

theorem witness_ToBitsInvertsToInt : bits "0" ≠ [] ∧ 15 < 2 ^ 4 ∧ 2 ^ 4 ≤ 16 ∧ 0 < 2 ^ 0 := by decide

theorem witness_FoldRunsItsLoopToTheEnd : 1 ≤ 4 ∧ 2 ^ 4 - 1 < 16 ∧ ¬ 2 ^ 4 - 1 < 15 := by decide

theorem witness_FoldHasItsClosedForm : (1 ≤ 1 ∧ 2 ≤ 4) ∧ fold 3 1 = 1 ∧ fold 30 4 = 15 := by decide

theorem witness_FlipComplementsOneBit : 3 < (bits "1011").length ∧ 0 < (bits "1").length := by decide

theorem witness_CksGenAppendsEachField :
    20 * blocks (least 16).ibuf.length 16 ≤ (least 16).maxLen := by decide

theorem witness_CksGenLengthLaw : ∃ t, exec .cksGen (least 16) = .next t ∧ t.err = none ∧
    (least 16).err = none := by
  obtain ⟨t, h, k⟩ := answers_next (exec .cksGen (least 16)) (fun t => t.err == none) (by decide)
  exact ⟨t, h, by simpa using k, rfl⟩

theorem witness_ChecksumRoundTripVerifies :
    Ready (least 16) ∧ 20 * blocks (least 16).ibuf.length 16 ≤ (least 16).maxLen :=
  ⟨ready_least 16, by decide⟩

theorem witness_AccumulatorHoldsTheFoldedSum :
    (zeros 16).length = 16 ∧ (zeros 20).length = 20 := by decide

theorem witness_NamedPolynomialIsItsPattern :
    (Poly.crc8, "100000111") ∈ [(Poly.crc8, "100000111"), (Poly.crc10, "11000000011"),
      (Poly.crc16, "11000000000000101"), (Poly.crc32, "100000100110000010001110110110111")] := by
  decide

theorem witness_DivisionStepCount : bits "1011" ≠ [] ∧
    (bits "1011").length ≤ (bits "0000").length ∧ bits "1" ≠ [] := by decide

theorem witness_XorDivideIsThePolynomialRemainder :
    (bits "1").head? = some true ∧ (bits "1").length ≤ (bits "0").length ∧
    (bits "1011").head? = some true ∧ (bits "1011").length ≤ (bits "1010").length := by decide

theorem witness_XorDivideIsLinear :
    (bits "1011").head? = some true ∧ (bits "1011").length ≤ (bits "1111").length ∧
    (bits "1111").length = (bits "0110").length := by decide

theorem witness_ShiftRegisterComputesTheRemainder :
    let p : Poly := .literal (List.replicate 64 true)
    let s : State := { State.reset with ibuf := zeros 64 }
    p.wellFormed = true ∧ (polyPattern p).head? = some true ∧
      (polyPattern p).length ≤ s.ibuf.length ∧ s.ibuf.length ≤ s.maxLen := by decide

theorem witness_CrcDivLeavesTheRemainder :
    (polyPattern .crc8).head? = some true ∧ (polyPattern .crc8).length ≤ (least 9).ibuf.length ∧
    (least 9).ibuf.length ≤ (least 9).maxLen := by decide

theorem witness_CrcGenAppendsTheRemainder :
    (polyPattern .crc8).head? = some true ∧ (least 0).ibuf = [] ∧ (least 12).ibuf ≠ [] ∧
    (least 12).ibuf.length + (polyPattern .crc8).length - 1 ≤ (least 12).maxLen := by decide

theorem witness_CrcVfyTestsTheRemainder :
    (polyPattern .crc8).head? = some true ∧ (least 0).ibuf = [] ∧
    (polyPattern .crc8).length ≤ (least 9).ibuf.length := by decide

theorem witness_CrcRoundTripVerifies :
    Ready (least 12) ∧ Poly.crc8.wellFormed = true ∧ (polyPattern .crc8).head? = some true ∧
    (least 12).ibuf.length + (polyPattern .crc8).length - 1 ≤ (least 12).maxLen :=
  ⟨ready_least 12, by decide, by decide, by decide⟩

theorem witness_SingleBitErrorsAreDetected :
    (let g := bits "11"; let word := bits "11"
     g.head? = some true ∧ g.length ≤ word.length ∧ 1 < word.length ∧
       xorDivide word g = List.replicate (g.length - 1) false ∧ 2 ≤ g.count true) ∧
    (let g := bits "10"; let word := bits "10110"
     g.head? = some true ∧ g.length ≤ word.length ∧
       xorDivide word g = List.replicate (g.length - 1) false ∧ g.count true = 1 ∧
       3 + (g.length - 1) < word.length) := by decide

theorem witness_ShortBurstsAreDetected :
    (bits "1011").head? = some true ∧ (bits "1011").getLast? = some true ∧
    (bits "1011").length ≤ (bits "1101001").length ∧ 3 < (bits "1011").length ∧
    bits "1110101" ≠ bits "1101001" ∧
    xorDivide (bits "1101001") (bits "1011") = List.replicate 3 false ∧
    (∀ j : Nat, j < 7 → (bits "1110101")[j]? ≠ (bits "1101001")[j]? → 2 ≤ j ∧ j < 2 + 3) ∧
    (bits "110").head? = some true ∧ (bits "110").getLast? = some false := by decide

theorem witness_InjRndFlipsEachAnswer :
    (let s := small "" "" [5]
     s.inj = none ∧ s.answers = [] ++ [5] ∧ ([] : List Nat).length = (0 : Imm).toNat) ∧
    (let s := small "10110" "" [4, 0, 9]
     s.inj = none ∧ s.answers = [4, 0] ++ [9] ∧ [4, 0].length = (2 : Imm).toNat ∧
       ∀ r ∈ [4, 0], r < s.ibuf.length) := by decide

theorem witness_RepeatedFlipsCancel : ∀ r ∈ [3, 3, 0], r < (bits "1011").length := by decide

theorem witness_InjBstFlipsInsideItsWindow :
    let s := small "00000000" "" [5, 1, 0, 1, 9]
    s.inj = none ∧ s.answers = 5 :: ([1, 0, 1] ++ [9]) ∧ [1, 0, 1].length = (3 : Imm).toNat ∧
      (3 : Imm).toNat ≤ s.ibuf.length ∧ 5 ≤ s.ibuf.length - (3 : Imm).toNat ∧
      ∀ f ∈ [1, 0, 1], f ≤ 1 := by decide

theorem witness_InjOddFlipsAnOddNumber :
    let s := small "0000" "" [1, 3, 2, 1, 9]
    s.inj = none ∧ s.answers = 1 :: ([3, 2, 1] ++ [9]) ∧ 2 ≤ s.ibuf.length ∧
      1 ≤ s.ibuf.length / 2 - 1 ∧ [3, 2, 1].length = 2 * 1 + 1 ∧
      ∀ k : Fin 3, [3, 2, 1][k] ≤ s.ibuf.length - 1 - k := by decide

theorem witness_InjUndAppliesItsMask : (polyPattern (lit "1011")).head? = some true := by decide

theorem witness_AlignedCorruptionIsInvisible :
    ((bits "1011").head? = some true ∧ 3 + (bits "1011").length ≤ (bits "1101001").length) ∧
    (Ready (least 12) ∧ Poly.crc8.wellFormed = true ∧ (polyPattern .crc8).head? = some true ∧
      (11 : Imm).toNat < (least 12).ibuf.length ∧
      (least 12).ibuf.length + (polyPattern .crc8).length - 1 ≤ (least 12).maxLen) :=
  ⟨by decide, ready_least 12, by decide, by decide, by decide, by decide⟩

/-- A command left waiting, for the statements on unanswered draws and on late answers. -/
theorem witness_waiting_commands : ∀ as ∈ [[], [0]], ∃ t,
    exec .injOdd (small "10" "" as) = .next t ∧ t.inj ≠ none ∧ Ready (small "10" "" as) := by
  intro as h
  obtain ⟨t, k, w⟩ := answers_next (exec .injOdd (small "10" "" as)) (fun t => t.inj != none)
    (by revert as; decide)
  exact ⟨t, k, by simpa using w, rfl, rfl⟩

/-- For each clause on a draw without an answer, at the last draw of the command and at its first. -/
theorem witness_UnansweredDrawWaits :
    (∀ as, Ready (small "1011" "" as)) ∧
    (small "1011" "" [3]).answers.length < (2 : Imm).toNat ∧ (∀ r ∈ [3], r < 4) ∧
    (small "1011" "" []).answers.length < (1 : Imm).toNat ∧
    (4 : Imm).toNat ≤ (small "1011" "" []).ibuf.length ∧
    0 ≤ 4 - (4 : Imm).toNat ∧ (∀ f ∈ [1, 0, 1], f ≤ 1) ∧ [1, 0, 1].length < (4 : Imm).toNat ∧
    2 ≤ (small "10" "" []).ibuf.length ∧ 1 ≤ 4 / 2 - 1 ∧ [3, 2].length < 2 * 1 + 1 ∧
    (∀ k : Fin 2, [3, 2][k] ≤ 4 - 1 - k) := ⟨fun _ => ⟨rfl, rfl⟩, by decide⟩

theorem witness_WaitingCommandYieldsOnlyToReset : ∀ events : List HostEvent,
    (waiting events).inj = some (.flips 1 (bits "1110")) ∧ (waiting events).host = events ∧
    (faulted events).inj = none ∧ (faulted events).host = events :=
  fun _ => ⟨rfl, rfl, rfl, rfl⟩

/-- The source answers by the attach event, and the waiting INJ.RND completes. -/
theorem test_attach_lets_a_waiting_command_complete : ∃ t,
    step (waiting [.attach [1]]) = .next t ∧ (t.inj == none && t.obuf == bits "1010") = true :=
  answers_next _ _ (by decide)

theorem witness_InjectionKeepsInputAndLength :
    (∃ t, exec (.injRnd 1) (small "10" "" [1]) = .next t ∧
      (t.err == none && t.inj == none) = true) ∧
    (∃ t, exec (.injBst 3) (small "10" "" [1]) = .next t ∧ (t.err != none) = true) ∧
    Ready (small "10" "" [1]) ∧ Inv (waiting []) ∧ (waiting []).inj ≠ none ∧
    (attachSource [1] (waiting [])).obuf = bits "1010" ∧
    (attachSource [4] (waiting [])).err = some .rng :=
  ⟨answers_next _ _ (by decide), answers_next _ _ (by decide), ⟨rfl, rfl⟩, inv_small_waiting,
    nofun, by decide, by decide⟩

/-- N = 0, and the longest literal with leading bit 0. -/
theorem witness_PolyFaultIsRaisedExactly :
    (decode 0x21100000000000000000000000000000 = .command (.crcGen (.literal [])) ∧
      (fieldsOf 0x21100000000000000000000000000000).psel = 1 ∧
      (fieldsOf 0x21100000000000000000000000000000).n = 0) ∧
    (decode 0x33140000000000000000000000000000 = .command (.injUnd (.literal (zeros 64)) 0) ∧
      (fieldsOf 0x33140000000000000000000000000000).psel = 1 ∧
      (fieldsOf 0x33140000000000000000000000000000).data.getLsbD 63 = false) ∧
    Ready State.reset := ⟨by decide, by decide, rfl, rfl⟩

theorem witness_RangeFaultIsRaisedExactly :
    (1 ≤ (1 : Imm).toNat ∧ (least 0).ibuf = []) ∧ (least 4).ibuf.length < (5 : Imm).toNat ∧
    (least 1).ibuf.length < 2 := by decide

theorem witness_ShortFaultIsRaisedExactly :
    (polyPattern .crc8).head? = some true ∧ (least 0).ibuf.length < (polyPattern .crc8).length ∧
    (least 8).ibuf.length < (polyPattern .crc8).length ∧ 1 ≤ (least 8).ibuf.length := by decide

/-- CRC.DIV meets its condition only under a MAXLEN no run has (C13): the last state. -/
theorem witness_CapFaultIsRaisedExactly :
    (least 16).maxLen < (least 16).ibuf.length + (zeros 5).length ∧
    (least 17).maxLen < 20 * blocks (least 17).ibuf.length 16 ∧
    (least 13).maxLen < (least 13).ibuf.length + (polyPattern .crc8).length - 1 ∧
    (let s : State := { least 9 with maxLen := 7 }
     (polyPattern .crc8).length ≤ s.ibuf.length ∧ s.maxLen < (polyPattern .crc8).length - 1) := by
  decide

theorem witness_RngFaultIsRaisedExactly : ∃ s t, Inv s ∧ Ready s ∧
    exec (.injRnd 1) s = .next t ∧ t.err = some .rng := by
  obtain ⟨t, h, k⟩ := answers_next (exec (.injRnd 1) { least 20 with answers := [20] })
    (fun t => t.err == some .rng) (by decide)
  have inv : Inv { least 20 with answers := [20] } :=
    ⟨inv_least.1, inv_least.2.1, inv_least.2.2.1, nofun, nofun⟩
  exact ⟨{ least 20 with answers := [20] }, t, inv, ⟨rfl, rfl⟩, h, by simpa using k⟩

end Sys2Proof.Tests
end

section
/-! Noninterference of the hidden registers ACC, SR and G (R13, R33). Two states that
differ at most in them are `s` and `withHidden a r g s`; every operation of the model, from the
shared ones up to the step, answers such a pair with `Alike` outcomes. -/

namespace Sys2Proof.Machine

/-- The state with other contents in the hidden registers. -/
def withHidden (a : BitVec 8) (r g : BitVec 64) (s : State) : State :=
  { s with acc := a, sr := r, gLatch := g }

theorem sameButHidden_withHidden (a : BitVec 8) (r g : BitVec 64) (s : State) :
    SameButHidden s (withHidden a r g s) := rfl

theorem sameButHidden_iff (s s' : State) :
    SameButHidden s s' ↔ ∃ a r g, s' = withHidden a r g s := by
  constructor
  · intro h
    refine ⟨s'.acc, s'.sr, s'.gLatch, ?_⟩
    simp only [SameButHidden, State.mk.injEq] at h
    simp [withHidden, h]
  · rintro ⟨a, r, g, rfl⟩
    exact sameButHidden_withHidden a r g s

/-- Outcomes of one kind that differ at most in the hidden registers of the next state. -/
inductive Alike : Outcome → Outcome → Prop where
  | next {t t' : State} (h : SameButHidden t t') : Alike (.next t) (.next t')
  | fault (r : Fault) : Alike (.fault r) (.fault r)
  | refused (r : Refusal) : Alike (.refused r) (.refused r)

theorem Alike.ite {c : Prop} [Decidable c] {o o' u u' : Outcome} (yes : Alike o o')
    (no : Alike u u') : Alike (if c then o else u) (if c then o' else u') := by
  split
  · exact yes
  · exact no

theorem Alike.of_next {t : State} {o : Outcome} (h : Alike (.next t) o) :
    ∃ t', o = .next t' ∧ SameButHidden t t' := by
  cases h with
  | next same => exact ⟨_, rfl, same⟩

theorem Alike.of_fault {f : Fault} {o : Outcome} (h : Alike (.fault f) o) : o = .fault f := by
  cases h with
  | fault => rfl

theorem Alike.of_refused {f : Refusal} {o : Outcome} (h : Alike (.refused f) o) :
    o = .refused f := by
  cases h with
  | refused => rfl

section
variable (a : BitVec 8) (r g : BitVec 64) (s : State)

/-! ## The shared operations -/

theorem recordFault_withHidden (f : CoreFault) :
    recordFault f (withHidden a r g s) = withHidden a r g (recordFault f s) := by
  cases h : s.err with
  | none => rw [recordFault_of_none s f h, recordFault_of_none (withHidden a r g s) f h]; rfl
  | some e => rw [recordFault_of_some s f e h, recordFault_of_some (withHidden a r g s) f e h]

theorem alike_raise (f : CoreFault) : Alike (raise f s) (raise f (withHidden a r g s)) := by
  unfold raise
  rw [recordFault_withHidden]
  exact .next (sameButHidden_withHidden a r g _)

theorem runDraws_withHidden (answers : List Nat) (run : InjRun) :
    runDraws answers run (withHidden a r g s) = withHidden a r g (runDraws answers run s) := by
  induction answers generalizing run s with
  | nil =>
    cases h : injRequest run with
    | none =>
      rw [runDraws_finished s [] run h, runDraws_finished (withHidden a r g s) [] run h]
      rfl
    | some q => rw [runDraws_silent s run q h, runDraws_silent (withHidden a r g s) run q h]; rfl
  | cons x rest ih =>
    cases h : injRequest run with
    | none =>
      rw [runDraws_finished s (x :: rest) run h,
        runDraws_finished (withHidden a r g s) (x :: rest) run h]
      rfl
    | some q =>
      cases k : inRange q x with
      | true =>
        rw [runDraws_answered s x rest run q h k,
          runDraws_answered (withHidden a r g s) x rest run q h k]
        exact ih (recordDraw q x s) (injAccept run x)
      | false =>
        rw [runDraws_rejected s x rest run q h k,
          runDraws_rejected (withHidden a r g s) x rest run q h k]
        exact recordFault_withHidden a r g
          { recordDraw q x s with answers := rest, inj := none } .rng

theorem alike_startInj (run : InjRun) :
    Alike (startInj run s) (startInj run (withHidden a r g s)) :=
  .next ((sameButHidden_iff _ _).mpr ⟨a, r, g, runDraws_withHidden a r g s s.answers run⟩)

theorem alike_withPoly (p : Poly) {run run' : Bits → Outcome}
    (h : ∀ pattern, Alike (run pattern) (run' pattern)) :
    Alike (withPoly p s run) (withPoly p (withHidden a r g s) run') :=
  .ite (h (polyPattern p)) (alike_raise a r g s .poly)

/-! ## The commands -/

theorem alike_execPush (bits : Bits) :
    Alike (execPush bits s) (execPush bits (withHidden a r g s)) :=
  .ite (alike_raise a r g s .cap) (.next rfl)

theorem alike_execCksGen : Alike (execCksGen s) (execCksGen (withHidden a r g s)) := by
  refine .ite (alike_raise a r g s .cap) ?_
  change Alike _ (match checksumCodeword s.ibuf with | some _ => _ | none => _)
  cases checksumCodeword s.ibuf with
  | some out => exact .next rfl
  | none => exact alike_raise a r g s .overflow

theorem alike_execCrcDiv (p : Poly) :
    Alike (execCrcDiv p s) (execCrcDiv p (withHidden a r g s)) :=
  alike_withPoly a r g s p fun _ =>
    .ite (alike_raise a r g s .short) (.ite (alike_raise a r g s .cap) (.next rfl))

theorem alike_execCrcGen (p : Poly) :
    Alike (execCrcGen p s) (execCrcGen p (withHidden a r g s)) :=
  alike_withPoly a r g s p fun _ =>
    .ite (.next rfl) (.ite (alike_raise a r g s .cap) (.next rfl))

theorem alike_execCrcVfy (p : Poly) :
    Alike (execCrcVfy p s) (execCrcVfy p (withHidden a r g s)) :=
  alike_withPoly a r g s p fun _ =>
    .ite (.next rfl) (.ite (alike_raise a r g s .short) (.next rfl))

theorem alike_execInjRnd (count : Imm) :
    Alike (execInjRnd count s) (execInjRnd count (withHidden a r g s)) :=
  .ite (alike_raise a r g s .range) (alike_startInj a r g s _)

theorem alike_execInjBst (size : Imm) :
    Alike (execInjBst size s) (execInjBst size (withHidden a r g s)) :=
  .ite (alike_raise a r g s .range) (alike_startInj a r g s _)

theorem alike_execInjOdd : Alike (execInjOdd s) (execInjOdd (withHidden a r g s)) :=
  .ite (alike_raise a r g s .range) (alike_startInj a r g s _)

theorem alike_execInjUnd (p : Poly) (shift : Imm) :
    Alike (execInjUnd p shift s) (execInjUnd p shift (withHidden a r g s)) := by
  refine alike_withPoly a r g s p fun _ => ?_
  exact .next rfl

theorem alike_exec (i : Instr) : Alike (exec i s) (exec i (withHidden a r g s)) := by
  cases i with
  | nop => exact .next rfl
  | clr => exact .next rfl
  | push bits => exact alike_execPush a r g s bits
  | mov => exact .next rfl
  | cksGen => exact alike_execCksGen a r g s
  | cksVfy => exact .next rfl
  | crcDiv p => exact alike_execCrcDiv a r g s p
  | crcGen p => exact alike_execCrcGen a r g s p
  | crcVfy p => exact alike_execCrcVfy a r g s p
  | injRnd count => exact alike_execInjRnd a r g s count
  | injBst size => exact alike_execInjBst a r g s size
  | injOdd => exact alike_execInjOdd a r g s
  | injUnd p shift => exact alike_execInjUnd a r g s p shift

/-! ## The ports and the step -/

theorem alike_runDescriptor (d : Descriptor) :
    Alike (runDescriptor d s) (runDescriptor d (withHidden a r g s)) := by
  cases h : decode d with
  | command i =>
    rw [runDescriptor_command s d i h, runDescriptor_command (withHidden a r g s) d i h]
    exact alike_exec a r g s i
  | illegal why =>
    rw [runDescriptor_illegal s d why h, runDescriptor_illegal (withHidden a r g s) d why h]
    exact alike_raise a r g s .illegal

/-- What the hidden registers settle to comes from the tick, not from what they held. -/
theorem settle_withHidden : settle (withHidden a r g s) = settle s := rfl

theorem Alike.afterCommand {o o' : Outcome} (h : Alike o o') :
    Alike (afterCommand o) (afterCommand o') := by
  cases h with
  | next same =>
    obtain ⟨a, r, g, rfl⟩ := (sameButHidden_iff _ _).mp same
    rw [afterCommand_next, afterCommand_next, settle_withHidden]
    exact .next rfl
  | fault f => exact .fault f
  | refused f => exact .refused f

theorem alike_acceptCommand (d : Descriptor) :
    Alike (acceptCommand d s) (acceptCommand d (withHidden a r g s)) := by
  cases h : s.err with
  | none =>
    rw [acceptCommand_ready s d h, acceptCommand_ready (withHidden a r g s) d h]
    exact (alike_runDescriptor a r g s d).afterCommand
  | some f =>
    rw [acceptCommand_faulted s d f h, acceptCommand_faulted (withHidden a r g s) d f h]
    exact .next (sameButHidden_withHidden a r g s)

theorem attachSource_idle (answers : List Nat) (h : s.inj = none) :
    attachSource answers s = { s with answers := answers } := by
  simp [attachSource, h]

theorem attachSource_waiting (answers : List Nat) (run : InjRun) (h : s.inj = some run) :
    attachSource answers s = settle (runDraws answers run s) := by
  simp [attachSource, h]

theorem alike_attachSource (answers : List Nat) :
    Alike (.next (attachSource answers s)) (.next (attachSource answers (withHidden a r g s))) := by
  cases h : s.inj with
  | none =>
    rw [attachSource_idle s answers h, attachSource_idle (withHidden a r g s) answers h]
    exact .next rfl
  | some run =>
    rw [attachSource_waiting s answers run h,
      attachSource_waiting (withHidden a r g s) answers run h,
      runDraws_withHidden, settle_withHidden]
    exact .next rfl

theorem alike_transactIdle (e : HostEvent) :
    Alike (transactIdle e s) (transactIdle e (withHidden a r g s)) := by
  cases e with
  | command d => exact alike_acceptCommand a r g s d
  | attach answers => exact alike_attachSource a r g s answers
  | reset => exact .next rfl
  | readStatus => exact .next rfl
  | readIlen => exact .next rfl
  | readOlen => exact .next rfl
  | readOdata index => exact .next rfl

theorem alike_transactWaiting (e : HostEvent) :
    Alike (transactWaiting e s) (transactWaiting e (withHidden a r g s)) := by
  cases e with
  | attach answers => exact alike_attachSource a r g s answers
  | reset => exact .next rfl
  | command d => exact .refused _
  | readStatus => exact .refused _
  | readIlen => exact .refused _
  | readOlen => exact .refused _
  | readOdata index => exact .refused _

theorem step_silent_idle (host : s.host = []) (inj : s.inj = none) : step s = .next s := by
  simp [step, transact, noTransaction, host, inj]

theorem step_silent_waiting {run : InjRun} (host : s.host = []) (inj : s.inj = some run) :
    step s = .fault .randomSourceSilent := by
  simp [step, transact, noTransaction, host, inj]

theorem step_idle {e : HostEvent} {rest : List HostEvent} (host : s.host = e :: rest)
    (inj : s.inj = none) : step s = transactIdle e { s with host := rest } := by
  simp [step, transact, host, inj]

theorem step_waiting {e : HostEvent} {rest : List HostEvent} {run : InjRun}
    (host : s.host = e :: rest) (inj : s.inj = some run) :
    step s = transactWaiting e { s with host := rest } := by
  simp [step, transact, host, inj]

theorem alike_step : Alike (step s) (step (withHidden a r g s)) := by
  cases host : s.host with
  | nil =>
    cases inj : s.inj with
    | none =>
      rw [step_silent_idle s host inj, step_silent_idle (withHidden a r g s) host inj]
      exact .next (sameButHidden_withHidden a r g s)
    | some run =>
      rw [step_silent_waiting s host inj, step_silent_waiting (withHidden a r g s) host inj]
      exact .fault _
  | cons e rest =>
    cases inj : s.inj with
    | none =>
      rw [step_idle s host inj, step_idle (withHidden a r g s) host inj]
      exact alike_transactIdle a r g { s with host := rest } e
    | some run =>
      rw [step_waiting s host inj, step_waiting (withHidden a r g s) host inj]
      exact alike_transactWaiting a r g { s with host := rest } e

end

/-- Settles O16: the steps of two such states are `Alike`, the three clauses case by case. -/
theorem hiddenRegistersAreNeverRead : Obligations.HiddenRegistersAreNeverRead := by
  intro s s' same
  obtain ⟨a, r, g, rfl⟩ := (sameButHidden_iff s s').mp same
  have alike := alike_step a r g s
  refine ⟨fun t h => ?_, fun f h => ?_, fun f h => ?_⟩ <;> rw [h] at alike
  · exact alike.of_next
  · exact alike.of_fault
  · exact alike.of_refused

end Sys2Proof.Machine
end

section
/-! The registers of CORE as 10_state.md lays them down: STATUS and the two length registers, what a
step does with a descriptor and with a reset, the invariant right after reset, and which command
writes which register. -/

namespace Sys2Proof.Machine

variable (s : State)

/-! ## STATUS, ILEN and OLEN -/

/-- R25: bit 0. -/
theorem getLsbD_statusWord_zero : (statusWord s).getLsbD 0 = s.valid := by
  simp only [statusWord, BitVec.getLsbD_append]
  simp

/-- R25: bits 3:1. -/
theorem getLsbD_statusWord_reserved {j : Nat} (h : j < 3) :
    (statusWord s).getLsbD (1 + j) = false := by
  simp only [statusWord, BitVec.getLsbD_append]
  simp [h]

/-- R25: bits 31:4, of which only 7:4 are bits of ERR. -/
theorem getLsbD_statusWord_err (j : Nat) :
    (statusWord s).getLsbD (4 + j) = (errField s.err).getLsbD j := by
  simp only [statusWord, BitVec.getLsbD_append, show ¬ 4 + j < 1 by omega,
    show ¬ 4 + j - 1 < 3 by omega, show 4 + j - 1 - 3 = j by omega, if_false, BitVec.getLsbD_zero]
  split
  · rfl
  · next high => exact (BitVec.getLsbD_of_ge _ j (not_lt.mp high)).symm

theorem statusWord_eq_zero (valid : s.valid = false) (err : s.err = none) : statusWord s = 0 := by
  simp [statusWord, valid, err, errField]

theorem ilenWord_toNat (h : s.ibuf.length < 2 ^ 32) : (ilenWord s).toNat = s.ibuf.length := by
  simp only [ilenWord, BitVec.toNat_ofNat, Nat.mod_eq_of_lt h]

theorem olenWord_toNat (h : s.obuf.length < 2 ^ 32) : (olenWord s).toNat = s.obuf.length := by
  simp only [olenWord, BitVec.toNat_ofNat, Nat.mod_eq_of_lt h]

/-- Settles O17: each field is read off bit by bit. -/
theorem statusWordHasItsFields : Obligations.StatusWordHasItsFields := by
  refine ⟨fun s => ⟨getLsbD_statusWord_zero s, ?zeros, ?err, ?high⟩, statusWord_eq_zero _ rfl rfl,
    rfl, rfl, rfl, rfl, rfl, rfl, rfl, rfl⟩
  case zeros =>
    ext j lt
    simp [getLsbD_statusWord_reserved s lt]
  case err =>
    ext j lt
    simp [getLsbD_statusWord_err, BitVec.getLsbD_eq_getElem lt]
  case high =>
    ext j lt
    simp [show 8 + j = 4 + (4 + j) by omega, getLsbD_statusWord_err]

/-- Settles O18: the invariant keeps both lengths within MAXLEN, which is below `2^32`. -/
theorem lengthRegistersAreTheLengths : Obligations.LengthRegistersAreTheLengths := by
  intro s inv
  obtain ⟨⟨_, greatest⟩, ibuf, obuf, _, _⟩ := inv
  have maxLen : s.maxLen < 2 ^ 32 := Nat.lt_of_le_pred (by decide) greatest
  exact ⟨ilenWord_toNat s (ibuf.trans_lt maxLen), olenWord_toNat s (obuf.trans_lt maxLen)⟩

/-! ## A descriptor, and reset -/

/-- Settles O7: the step of a ready core is the CMD port's, which runs what was decoded. -/
theorem stepRunsTheDecodedCommand : Obligations.StepRunsTheDecodedCommand := by
  rintro s d rest i ⟨err, inj⟩ host command
  calc step s = acceptCommand d { s with host := rest } := step_idle s host inj
    _ = afterCommand (runDescriptor d { s with host := rest }) := acceptCommand_ready _ d err
    _ = afterCommand (exec i { s with host := rest }) := by
      rw [runDescriptor_command _ d i command]

/-- Reset takes effect in every state, while a command waits too (R230). -/
theorem step_reset {rest : List HostEvent} (host : s.host = .reset :: rest) :
    step s = .next (resetCore { s with host := rest }) := by
  cases inj : s.inj with
  | none => exact step_idle s host inj
  | some run => exact step_waiting s host inj

/-- Settles O8: the next state is `resetCore`'s, and its registers are read off. -/
theorem resetPutsEveryRegisterAtItsValue : Obligations.ResetPutsEveryRegisterAtItsValue := by
  constructor
  · intro s rest host
    exact ⟨_, step_reset s host, rfl, rfl, rfl, rfl, statusWord_eq_zero _ rfl rfl, rfl, ⟨rfl, rfl⟩,
      rfl, rfl, rfl, rfl⟩
  · exact fun m => ⟨rfl, rfl, rfl, rfl, statusWord_eq_zero _ rfl rfl, rfl, rfl, rfl⟩

/-- Right after reset the invariant asks nothing but R7's bounds on MAXLEN: the buffers are empty,
no command waits, no draw is on record. -/
theorem inv_resetWith {m : Nat} (ok : maxLenOk m) : Inv (State.resetWith m) :=
  ⟨ok, Nat.zero_le m, Nat.zero_le m, nofun, nofun⟩

/-- Settles O9: MAXLEN is in R7's bounds, and nothing else is asked. -/
theorem resetMeetsTheInvariant : Obligations.ResetMeetsTheInvariant :=
  ⟨fun _ => inv_resetWith, inv_resetWith ⟨by decide, le_rfl⟩⟩

/-! ## What a command can do -/

/-- The next state of a command that raises no operand fault, with what that says of its operands.
The draws of an INJ command may still end in a wait or in the RNG fault (`runDraws`, R172). -/
inductive Completes : Instr → State → Prop where
  | nop : Completes .nop s
  | clr : Completes .clr (setIbuf [] s)
  | push (bits : Bits) (fits : s.ibuf.length + bits.length ≤ s.maxLen) :
      Completes (.push bits) (setIbuf (s.ibuf ++ bits) s)
  | mov : Completes .mov (setIbuf s.obuf s)
  | cksGen (out : Bits) (fits : codewordLength s.ibuf ≤ s.maxLen)
      (codeword : checksumCodeword s.ibuf = some out) :
      Completes .cksGen (setAcc (accAfter (generateChunks s.ibuf) s.acc) (setObuf out s))
  | cksVfy : Completes .cksVfy
      (setAcc (accAfter (verifyWords s.ibuf) s.acc) (setValid (checksumValid s.ibuf) s))
  | crcDiv (p : Poly) (g : Bits) (pattern : g = polyPattern p) (valid : validPattern g = true)
      (long : g.length ≤ s.ibuf.length) (fits : g.length - 1 ≤ s.maxLen) :
      Completes (.crcDiv p) (latchDivision s.ibuf g (setObuf (xorDivide s.ibuf g) s))
  | crcGenEmpty (p : Poly) (g : Bits) (pattern : g = polyPattern p) (valid : validPattern g = true)
      (empty : s.ibuf = []) :
      Completes (.crcGen p) (setPolyLatch (registerOf g) (setObuf [] s))
  | crcGen (p : Poly) (g : Bits) (pattern : g = polyPattern p) (valid : validPattern g = true)
      (nonempty : s.ibuf ≠ []) (fits : s.ibuf.length + (g.length - 1) ≤ s.maxLen) :
      Completes (.crcGen p) (latchDivision (generateDividend s.ibuf g) g
        (setObuf (s.ibuf ++ xorDivide (generateDividend s.ibuf g) g) s))
  | crcVfyEmpty (p : Poly) (g : Bits) (pattern : g = polyPattern p) (valid : validPattern g = true)
      (empty : s.ibuf = []) :
      Completes (.crcVfy p) (setPolyLatch (registerOf g) (setValid true s))
  | crcVfy (p : Poly) (g : Bits) (pattern : g = polyPattern p) (valid : validPattern g = true)
      (nonempty : s.ibuf ≠ []) (long : g.length ≤ s.ibuf.length) :
      Completes (.crcVfy p) (latchDivision s.ibuf g
        (setValid (xorDivide s.ibuf g == zeros (g.length - 1)) s))
  | injRnd (count : Imm) (range : ¬ (1 ≤ count.toNat ∧ s.ibuf = [])) :
      Completes (.injRnd count) (runDraws s.answers (.flips count.toNat s.ibuf) s)
  | injBst (size : Imm) (range : size.toNat ≤ s.ibuf.length) :
      Completes (.injBst size) (runDraws s.answers (.burstStart size.toNat s.ibuf) s)
  | injOdd (range : 2 ≤ s.ibuf.length) :
      Completes .injOdd (runDraws s.answers (.oddCount s.ibuf) s)
  | injUnd (p : Poly) (shift : Imm) (g : Bits) (pattern : g = polyPattern p)
      (valid : validPattern g = true) :
      Completes (.injUnd p shift) (setObuf (applyMask s.ibuf g shift.toNat) s)

/-- Everything a command can answer: the next state of a fault it raised (R210), or
`Completes`. -/
inductive Answers (i : Instr) : Outcome → Prop where
  | fault (f : CoreFault) : Answers i (.next (recordFault f s))
  | completes {t : State} (h : Completes s i t) : Answers i (.next t)

variable {s}

theorem Answers.ite {i : Instr} {c : Prop} [Decidable c] {o u : Outcome} (yes : c → Answers s i o)
    (no : ¬ c → Answers s i u) : Answers s i (if c then o else u) := by
  split
  · next h => exact yes h
  · next h => exact no h

theorem Answers.withPoly {i : Instr} {p : Poly} {run : Bits → Outcome}
    (h : ∀ g, g = polyPattern p → validPattern g = true → Answers s i (run g)) :
    Answers s i (withPoly p s run) :=
  .ite (h _ rfl) fun _ => .fault .poly

variable (s)

theorem answers_execPush (bits : Bits) : Answers s (.push bits) (execPush bits s) :=
  .ite (fun _ => .fault .cap) fun fits => .completes (.push bits (not_lt.mp fits))

theorem answers_execCksGen : Answers s .cksGen (execCksGen s) := by
  refine .ite (fun _ => .fault .cap) fun fits => ?_
  cases h : checksumCodeword s.ibuf with
  | some out => exact .completes (.cksGen out (not_lt.mp fits) h)
  | none => exact .fault .overflow

theorem answers_execCrcDiv (p : Poly) : Answers s (.crcDiv p) (execCrcDiv p s) :=
  .withPoly fun g pattern valid =>
    .ite (fun _ => .fault .short) fun long => .ite (fun _ => .fault .cap) fun fits =>
      .completes (.crcDiv p g pattern valid (not_lt.mp long) (not_lt.mp fits))

theorem answers_execCrcGen (p : Poly) : Answers s (.crcGen p) (execCrcGen p s) :=
  .withPoly fun g pattern valid =>
    .ite (fun empty => .completes (.crcGenEmpty p g pattern valid empty)) fun nonempty =>
      .ite (fun _ => .fault .cap) fun fits =>
        .completes (.crcGen p g pattern valid nonempty (not_lt.mp fits))

theorem answers_execCrcVfy (p : Poly) : Answers s (.crcVfy p) (execCrcVfy p s) :=
  .withPoly fun g pattern valid =>
    .ite (fun empty => .completes (.crcVfyEmpty p g pattern valid empty)) fun nonempty =>
      .ite (fun _ => .fault .short) fun long =>
        .completes (.crcVfy p g pattern valid nonempty (not_lt.mp long))

theorem answers_execInjRnd (count : Imm) : Answers s (.injRnd count) (execInjRnd count s) :=
  .ite (fun _ => .fault .range) fun range => .completes (.injRnd count range)

theorem answers_execInjBst (size : Imm) : Answers s (.injBst size) (execInjBst size s) :=
  .ite (fun _ => .fault .range) fun range => .completes (.injBst size (not_lt.mp range))

theorem answers_execInjOdd : Answers s .injOdd (execInjOdd s) :=
  .ite (fun _ => .fault .range) fun range => .completes (.injOdd (not_lt.mp range))

theorem answers_execInjUnd (p : Poly) (shift : Imm) :
    Answers s (.injUnd p shift) (execInjUnd p shift s) :=
  .withPoly fun g pattern valid => .completes (.injUnd p shift g pattern valid)

theorem answers_exec (i : Instr) : Answers s i (exec i s) := by
  cases i with
  | nop => exact .completes .nop
  | clr => exact .completes .clr
  | push bits => exact answers_execPush s bits
  | mov => exact .completes .mov
  | cksGen => exact answers_execCksGen s
  | cksVfy => exact .completes .cksVfy
  | crcDiv p => exact answers_execCrcDiv s p
  | crcGen p => exact answers_execCrcGen s p
  | crcVfy p => exact answers_execCrcVfy s p
  | injRnd count => exact answers_execInjRnd s count
  | injBst size => exact answers_execInjBst s size
  | injOdd => exact answers_execInjOdd s
  | injUnd p shift => exact answers_execInjUnd s p shift

/-- The inversion of a command: it raised a fault, or it completed. -/
theorem exec_next_cases {s t : State} {i : Instr} (h : exec i s = .next t) :
    (∃ f, t = recordFault f s) ∨ Completes s i t := by
  have answers := answers_exec s i
  rw [h] at answers
  cases answers with
  | fault f => exact .inl ⟨f, rfl⟩
  | completes c => exact .inr c

/-! ## Which command writes which register -/

section
variable (as : List Nat) (run : InjRun)

@[simp] theorem runDraws_ibuf : (runDraws as run s).ibuf = s.ibuf := (runDraws_keeps s as run).ibuf
@[simp] theorem runDraws_valid : (runDraws as run s).valid = s.valid :=
  (runDraws_keeps s as run).valid
@[simp] theorem runDraws_acc : (runDraws as run s).acc = s.acc := (runDraws_keeps s as run).acc
@[simp] theorem runDraws_sr : (runDraws as run s).sr = s.sr := (runDraws_keeps s as run).sr
@[simp] theorem runDraws_gLatch : (runDraws as run s).gLatch = s.gLatch :=
  (runDraws_keeps s as run).gLatch
@[simp] theorem runDraws_maxLen : (runDraws as run s).maxLen = s.maxLen :=
  (runDraws_keeps s as run).maxLen
@[simp] theorem runDraws_host : (runDraws as run s).host = s.host := (runDraws_keeps s as run).host
@[simp] theorem runDraws_reply : (runDraws as run s).reply = s.reply :=
  (runDraws_keeps s as run).reply
@[simp] theorem runDraws_tick : (runDraws as run s).tick = s.tick := (runDraws_keeps s as run).tick

end

/-- Settles O14: a fault writes STATUS.ERR alone, and each completion names what it writes, so the
lemmas of one field after one update settle every clause. -/
theorem eachRegisterIsWrittenOnlyByItsCommands :
    Obligations.EachRegisterIsWrittenOnlyByItsCommands := by
  intro i s t h
  obtain ⟨f, rfl⟩ | completes := exec_next_cases h
  · simp
  · cases completes <;> simp

end Sys2Proof.Machine
end

section
/-! The ports and the invariant, as 20_memory.md lays them down: what a port read answers (R54 to
R56), and that every step keeps the invariant, with both buffers within MAXLEN (R61). -/

namespace Sys2Proof.Machine

/-! ## Port reads -/

theorem replyOdata_of_getElem? {s : State} {i : Nat} {b : Bool} (h : s.obuf[i]? = some b) :
    replyOdata i s = { s with reply := .bit b } := by
  obtain ⟨lt, rfl⟩ := List.getElem?_eq_some_iff.mp h
  simp [replyOdata, odataBit, lt]

theorem replyOdata_of_length_le {s : State} {i : Nat} (h : s.obuf.length ≤ i) :
    replyOdata i s =
      { s with reply := .bit (Config.freeOutputBit s.tick), tick := s.tick + 1 } := by
  simp [replyOdata, odataBit, not_lt.mpr h]

/-- Settles O19: the step is the port's own reply; of ODATA's two cases one reads a bit of OBUF and
the other a free value. -/
theorem portReadsAnswerWithoutEffect : Obligations.PortReadsAnswerWithoutEffect := by
  intro s rest inj
  refine ⟨fun host => step_idle s host inj, fun host => step_idle s host inj,
    fun host => step_idle s host inj, fun i b host below => ?below, fun i host above => ?above⟩
  case below =>
    calc step s = .next (replyOdata i { s with host := rest }) := step_idle s host inj
      _ = _ := congrArg Host.Outcome.next
        (replyOdata_of_getElem? (s := { s with host := rest }) below)
  case above =>
    refine ⟨Config.freeOutputBit s.tick, ?_⟩
    calc step s = .next (replyOdata i { s with host := rest }) := step_idle s host inj
      _ = _ := congrArg Host.Outcome.next
        (replyOdata_of_length_le (s := { s with host := rest }) above)

/-! ## The lengths of the results -/

theorem length_of_toBits {v w : Nat} {b : Bits} (h : toBits v w = some b) : b.length = w := by
  unfold toBits at h
  split at h
  · cases h; exact lowBits_length v w
  · cases h

theorem length_of_mem_chunk {s c : Bits} {k : Nat} (h : c ∈ chunk s k) : c.length = k := by
  obtain ⟨i, lt, rfl⟩ := List.mem_map.mp h
  have enough : (i + 1) * k ≤ s.length :=
    (Nat.mul_le_mul_right k (List.mem_range.mp lt)).trans (Nat.div_mul_le_self _ _)
  rw [Nat.succ_mul] at enough
  simp only [slice_length, Nat.succ_mul]
  omega

theorem length_of_chunkWithField {c out : Bits} (h : chunkWithField c = some out) :
    out.length = c.length + Config.wordSize := by
  obtain ⟨f, field, rfl⟩ := Option.map_eq_some_iff.mp h
  rw [List.length_append, complement_length, length_of_toBits field]

theorem length_flatten_of_mapM_chunkWithField {k : Nat} {cs outs : List Bits}
    (len : ∀ c ∈ cs, c.length = k) (h : cs.mapM chunkWithField = some outs) :
    outs.flatten.length = cs.length * (k + Config.wordSize) := by
  induction cs generalizing outs with
  | nil => cases h; simp
  | cons c cs ih =>
    rw [List.mapM_cons] at h
    obtain ⟨out, first, h⟩ := Option.bind_eq_some_iff.mp h
    obtain ⟨more, others, h⟩ := Option.bind_eq_some_iff.mp h
    cases h
    rw [List.flatten_cons, List.length_append, length_of_chunkWithField first,
      len c List.mem_cons_self, ih (fun c mem => len c (List.mem_cons_of_mem _ mem)) others,
      List.length_cons]
    ring

/-- The length R206 checks beforehand is the one the codeword has (R123). -/
theorem length_of_checksumCodeword {payload out : Bits} (h : checksumCodeword payload = some out) :
    out.length = codewordLength payload := by
  obtain ⟨outs, each, rfl⟩ := Option.map_eq_some_iff.mp h
  rw [length_flatten_of_mapM_chunkWithField (fun c => length_of_mem_chunk) each]
  simp only [codewordLength, chunk_length, padLeft_length, Config.chunkSize, Config.wordSize]
  omega

theorem reduce_length {r g : Bits} (h : r.length = g.length) : (reduce r g).length = g.length := by
  unfold reduce
  split
  · rw [xorBits_length, h, min_self]
  · exact h

theorem divideLoop_length {g r : Bits} (d : Bits) (nonempty : g ≠ []) (h : r.length = g.length) :
    (divideLoop g r d).1.length = g.length - 1 := by
  have pos : 1 ≤ g.length := List.length_pos_iff.mpr nonempty
  induction d generalizing r with
  | nil => simp [divideLoop, reduce_length h]
  | cons b rest ih =>
    refine ih ?_
    simp only [List.length_append, List.length_drop, reduce_length h, List.length_singleton]
    omega

theorem xorDivide_length {d g : Bits} (nonempty : g ≠ []) (long : g.length ≤ d.length) :
    (xorDivide d g).length = g.length - 1 :=
  divideLoop_length _ nonempty (by simp [long])

theorem ne_nil_of_validPattern {g : Bits} (h : validPattern g = true) : g ≠ [] := by
  obtain ⟨rest, rfl⟩ := (validPattern_iff g).mp h
  exact List.cons_ne_nil _ _

theorem generateDividend_long {data g : Bits} (nonempty : data ≠ []) :
    g.length ≤ (generateDividend data g).length := by
  have pos : 1 ≤ data.length := List.length_pos_iff.mpr nonempty
  simp only [generateDividend, List.length_append, zeros_length]
  omega

theorem applyMaskBit_length (data g : Bits) (shift : Nat) (work : Bits) (j : Nat) :
    (applyMaskBit data g shift work j).length = work.length := by
  simp only [applyMaskBit]
  split <;> simp

theorem applyMask_length (data g : Bits) (shift : Nat) :
    (applyMask data g shift).length = data.length :=
  List.foldlRecOn (motive := fun work => work.length = data.length) _ _ rfl
    fun work len j _ => (applyMaskBit_length data g shift work j).trans len

/-! ## The working registers of a command that draws

An INJ command waits only where a draw is due, and there its registers are as `runOk` says; an
answer in range keeps them so. -/

theorem length_filter_unchosen {len : Nat} {chosen : List Nat} (nodup : chosen.Nodup)
    (bound : ∀ i ∈ chosen, i < len) :
    ((List.range len).filter fun i => !chosen.contains i).length = len - chosen.length := by
  have perm : ((List.range len).filter fun i => chosen.contains i).Perm chosen :=
    (List.perm_ext_iff_of_nodup (List.nodup_range.filter _) nodup).mpr fun i => by
      simpa using bound i
  have split := List.length_eq_length_filter_add (l := List.range len) chosen.contains
  rw [List.length_range, perm.length_eq] at split
  omega

/-- A rank below the number of indices not yet chosen stands for one of them (R177). -/
theorem unchosenAtRank_mem {len r : Nat} {chosen : List Nat} (nodup : chosen.Nodup)
    (bound : ∀ i ∈ chosen, i < len) (rank : r < len - chosen.length) :
    unchosenAtRank len chosen r < len ∧ unchosenAtRank len chosen r ∉ chosen := by
  have mem : unchosenAtRank len chosen r ∈
      (List.range len).filter fun i => !chosen.contains i := by
    rw [← length_filter_unchosen nodup bound] at rank
    rw [unchosenAtRank, List.getElem?_eq_getElem rank]
    exact List.getElem_mem rank
  simpa using mem

/-- The working registers between two draws, and after the last: whenever another draw is due they
are what `runOk` asks of a command that waits there. -/
structure Underway (len : Nat) (run : InjRun) : Prop where
  work : (injWork run).length = len
  due : injRequest run ≠ none → runOk len run

theorem underway_of_runOk {len : Nat} {run : InjRun} (ok : runOk len run) : Underway len run := by
  refine ⟨?_, fun _ => ok⟩
  cases run <;> exact ok.1

/-- INJ.RND starts in order: without a count there is no draw, and with one RANGE has looked at the
data (R175). -/
theorem underway_flips {count : Nat} {work : Bits} (range : ¬ (1 ≤ count ∧ work = [])) :
    Underway work.length (.flips count work) := by
  refine ⟨rfl, fun draws => ?_⟩
  have due : 1 ≤ count := Nat.one_le_iff_ne_zero.mpr fun zero => draws (if_pos zero)
  exact ⟨rfl, due, List.length_pos_iff.mpr fun empty => range ⟨due, empty⟩⟩

/-- Every request lies within the data, or is one for a single bit (R175 to R177). -/
theorem requestOk_of_injRequest {run : InjRun} {q : DrawRequest} (h : injRequest run = some q)
    (small : (injWork run).length < 2 ^ 32) : requestOk q := by
  have bounds : q.lo ≤ q.hi ∧ (q.hi ≤ (injWork run).length ∨ q.hi = 1) := by
    cases run with
    | flips left work =>
      obtain ⟨-, ⟨⟩⟩ := Option.ite_none_left_eq_some.mp h
      exact ⟨Nat.zero_le _, .inl (Nat.sub_le _ _)⟩
    | burstStart size work =>
      obtain rfl := Option.some.inj h
      exact ⟨Nat.zero_le _, .inl (Nat.sub_le _ _)⟩
    | burst pos left work =>
      obtain ⟨-, ⟨⟩⟩ := Option.ite_none_left_eq_some.mp h
      exact ⟨Nat.zero_le _, .inr rfl⟩
    | oddCount work =>
      obtain rfl := Option.some.inj h
      exact ⟨Nat.zero_le _, .inl ((Nat.sub_le _ _).trans (Nat.div_le_self _ _))⟩
    | oddPick left chosen work =>
      obtain ⟨-, ⟨⟩⟩ := Option.ite_none_left_eq_some.mp h
      exact ⟨Nat.zero_le _, .inl ((Nat.sub_le _ _).trans (Nat.sub_le _ _))⟩
  obtain ⟨le, within | bit⟩ := bounds
  · exact ⟨le, within.trans_lt small⟩
  · exact ⟨le, by omega⟩

theorem inRange_iff (q : DrawRequest) (r : Nat) : inRange q r = true ↔ q.lo ≤ r ∧ r ≤ q.hi := by
  simp [inRange]

/-- An answer in range leaves the registers in order, unless it was to the last draw (R175 to
R177). -/
theorem runOk_injAccept {len r : Nat} {run : InjRun} {q : DrawRequest} (ok : runOk len run)
    (request : injRequest run = some q) (range : inRange q r = true)
    (more : injRequest (injAccept run r) ≠ none) : runOk len (injAccept run r) := by
  obtain ⟨-, hi⟩ := (inRange_iff q r).mp range
  cases run with
  | flips left work =>
    obtain ⟨work_len, -, nonempty⟩ := ok
    have due : left - 1 ≠ 0 := fun zero => more (if_pos zero)
    exact ⟨by simpa using work_len, by omega, nonempty⟩
  | burstStart size work =>
    obtain ⟨work_len, fits⟩ := ok
    obtain rfl := Option.some.inj request
    have due : size ≠ 0 := fun zero => more (if_pos zero)
    exact ⟨work_len, by omega, by dsimp only at hi; omega⟩
  | burst pos left work =>
    obtain ⟨work_len, -, fits⟩ := ok
    have due : left - 1 ≠ 0 := fun zero => more (if_pos zero)
    exact ⟨by split <;> simpa using work_len, by omega, by omega⟩
  | oddCount work =>
    obtain ⟨work_len, two⟩ := ok
    obtain rfl := Option.some.inj request
    dsimp only at hi
    exact ⟨work_len, by omega, .nil, nofun, by simp; omega, by simp⟩
  | oddPick left chosen work =>
    obtain ⟨work_len, -, nodup, bound, room, odd⟩ := ok
    obtain ⟨-, ⟨⟩⟩ := Option.ite_none_left_eq_some.mp request
    have due : left - 1 ≠ 0 := fun zero => more (if_pos zero)
    subst work_len
    dsimp only at hi
    obtain ⟨lt, fresh⟩ := unchosenAtRank_mem nodup bound (r := r) (by omega)
    have same : left - 1 + (chosen ++ [unchosenAtRank work.length chosen r]).length =
        left + chosen.length := by
      rw [List.length_append, List.length_singleton]
      omega
    refine ⟨flipBit_length _ _, by omega, ?_, ?_, same ▸ room, same ▸ odd⟩
    · rw [← List.concat_eq_append]
      exact nodup.concat fresh
    · simpa [or_imp, forall_and] using ⟨bound, lt⟩

theorem underway_injAccept {len r : Nat} {run : InjRun} {q : DrawRequest}
    (underway : Underway len run) (request : injRequest run = some q)
    (range : inRange q r = true) : Underway len (injAccept run r) :=
  ⟨(injWork_accept_length run r).trans underway.work,
    runOk_injAccept (underway.due (request ▸ Option.some_ne_none q)) request range⟩

/-! ## The invariant, operation by operation

Each operation of the model has its lemma, from fault entry up to the step. -/

section
variable {s t : State}

theorem Inv.maxLen_lt (inv : Inv s) : s.maxLen < 2 ^ 32 := by
  obtain ⟨⟨-, greatest⟩, -⟩ := inv
  exact Nat.lt_of_le_pred (by decide) greatest

theorem Inv.ibuf_le (inv : Inv s) : s.ibuf.length ≤ s.maxLen := by
  obtain ⟨-, ibuf, -⟩ := inv
  exact ibuf

theorem Inv.obuf_le (inv : Inv s) : s.obuf.length ≤ s.maxLen := by
  obtain ⟨-, -, obuf, -⟩ := inv
  exact obuf

theorem Inv.waiting (inv : Inv s) : waitingOk s := by
  obtain ⟨-, -, -, waiting, -⟩ := inv
  exact waiting

/-- With no command in progress the invariant asks for the lengths and the record of draws alone. -/
theorem Inv.no_command (inv : Inv s) (inj : t.inj = none) (maxLen : t.maxLen = s.maxLen)
    (draws : t.draws = s.draws) (ibuf : t.ibuf.length ≤ s.maxLen)
    (obuf : t.obuf.length ≤ s.maxLen) : Inv t := by
  obtain ⟨ok, -, -, -, requests⟩ := inv
  exact ⟨maxLen ▸ ok, maxLen ▸ ibuf, maxLen ▸ obuf, by simp [waitingOk, inj], draws ▸ requests⟩

theorem Inv.recordFault (inv : Inv s) (inj : s.inj = none) (f : CoreFault) :
    Inv (recordFault f s) :=
  inv.no_command (by simpa using inj) (by simp) (by simp) (by simpa using inv.ibuf_le)
    (by simpa using inv.obuf_le)

/-- The invariant speaks neither of the hidden registers nor of the free values. -/
theorem Inv.settle (inv : Inv s) : Inv (settle s) := inv

theorem Inv.recordDraw {q : DrawRequest} (inv : Inv s) (ok : requestOk q) (r : Nat) :
    Inv (recordDraw q r s) := by
  obtain ⟨maxLen, ibuf, obuf, waiting, requests⟩ := inv
  refine ⟨maxLen, ibuf, obuf, waiting, fun d mem => ?_⟩
  rw [recordDraw_draws, List.mem_append, List.mem_singleton] at mem
  obtain old | rfl := mem
  · exact requests d old
  · exact ok

theorem Inv.finishInj {run : InjRun} (inv : Inv s) (work : (injWork run).length = s.ibuf.length)
    (answers : List Nat) : Inv (finishInj run answers s) :=
  inv.no_command rfl rfl rfl inv.ibuf_le (work.trans_le inv.ibuf_le)

theorem Inv.awaitAnswer {run : InjRun} (inv : Inv s) (err : s.err = none)
    (ok : runOk s.ibuf.length run) : Inv (awaitAnswer run s) := by
  obtain ⟨maxLen, ibuf, obuf, -, requests⟩ := inv
  refine ⟨maxLen, ibuf, obuf, fun run' h => ?_, requests⟩
  obtain rfl := Option.some.inj h
  exact ⟨ok, err, rfl⟩

theorem Inv.rejectAnswer (inv : Inv s) (answers : List Nat) : Inv (rejectAnswer answers s) := by
  have dropped : Inv { s with answers := answers, inj := none } :=
    inv.no_command rfl rfl rfl inv.ibuf_le inv.obuf_le
  exact dropped.recordFault rfl .rng

/-- The draws of a command keep the invariant, to its completion, its next wait or the RNG fault. -/
theorem Inv.runDraws {run : InjRun} (inv : Inv s) (err : s.err = none)
    (underway : Underway s.ibuf.length run) (answers : List Nat) :
    Inv (runDraws answers run s) := by
  induction answers generalizing run s with
  | nil =>
    cases request : injRequest run with
    | none =>
      rw [runDraws_finished s [] run request]
      exact inv.finishInj underway.work []
    | some q =>
      rw [runDraws_silent s run q request]
      exact inv.awaitAnswer err (underway.due (request ▸ Option.some_ne_none q))
  | cons r rest ih =>
    cases request : injRequest run with
    | none =>
      rw [runDraws_finished s (r :: rest) run request]
      exact inv.finishInj underway.work (r :: rest)
    | some q =>
      have small : (injWork run).length < 2 ^ 32 :=
        underway.work ▸ inv.ibuf_le.trans_lt inv.maxLen_lt
      have recorded := inv.recordDraw (requestOk_of_injRequest request small) r
      cases range : inRange q r with
      | true =>
        rw [runDraws_answered s r rest run q request range]
        exact ih recorded err (underway_injAccept underway request range)
      | false =>
        rw [runDraws_rejected s r rest run q request range]
        exact recorded.rejectAnswer rest

theorem Inv.completes {i : Instr} (inv : Inv s) (ready : Ready s) (h : Completes s i t) :
    Inv t := by
  obtain ⟨err, inj⟩ := ready
  have ibuf := inv.ibuf_le
  have obuf := inv.obuf_le
  cases h with
  | nop => exact inv
  | clr => exact inv.no_command inj rfl rfl (Nat.zero_le _) obuf
  | push bits fits => exact inv.no_command inj rfl rfl (by simpa using fits) obuf
  | mov => exact inv.no_command inj rfl rfl obuf obuf
  | cksGen out fits codeword =>
    exact inv.no_command inj rfl rfl ibuf ((length_of_checksumCodeword codeword).trans_le fits)
  | cksVfy => exact inv
  | crcDiv p g pattern valid long fits =>
    have len := xorDivide_length (ne_nil_of_validPattern valid) long
    exact inv.no_command inj rfl rfl ibuf (len.trans_le fits)
  | crcGenEmpty p g pattern valid empty =>
    exact inv.no_command inj rfl rfl ibuf (Nat.zero_le _)
  | crcGen p g pattern valid nonempty fits =>
    have len := xorDivide_length (ne_nil_of_validPattern valid)
      (generateDividend_long (g := g) nonempty)
    exact inv.no_command inj rfl rfl ibuf (by simpa [len] using fits)
  | crcVfyEmpty p g pattern valid empty => exact inv
  | crcVfy p g pattern valid nonempty long => exact inv
  | injRnd count range => exact inv.runDraws err (underway_flips range) _
  | injBst size range =>
    exact inv.runDraws err (underway_of_runOk (run := .burstStart _ _) ⟨rfl, range⟩) _
  | injOdd range => exact inv.runDraws err (underway_of_runOk (run := .oddCount _) ⟨rfl, range⟩) _
  | injUnd p shift g pattern valid =>
    exact inv.no_command inj rfl rfl ibuf ((applyMask_length _ g _).trans_le ibuf)

theorem Inv.exec {i : Instr} (inv : Inv s) (ready : Ready s) (h : exec i s = .next t) : Inv t := by
  obtain ⟨f, rfl⟩ | completes := exec_next_cases h
  · exact inv.recordFault ready.2 f
  · exact inv.completes ready completes

theorem Inv.runDescriptor {d : Descriptor} (inv : Inv s) (ready : Ready s)
    (h : runDescriptor d s = .next t) : Inv t := by
  cases decoded : decode d with
  | command i =>
    rw [runDescriptor_command s d i decoded] at h
    exact inv.exec ready h
  | illegal why =>
    rw [runDescriptor_illegal s d why decoded] at h
    cases h
    exact inv.recordFault ready.2 .illegal

theorem Inv.acceptCommand {d : Descriptor} (inv : Inv s) (inj : s.inj = none)
    (h : acceptCommand d s = .next t) : Inv t := by
  cases err : s.err with
  | none =>
    rw [acceptCommand_ready s d err, afterCommand_eq_next] at h
    obtain ⟨u, run, rfl⟩ := h
    exact (inv.runDescriptor ⟨err, inj⟩ run).settle
  | some f =>
    rw [acceptCommand_faulted s d f err] at h
    cases h
    exact inv

theorem Inv.attachSource (inv : Inv s) (answers : List Nat) : Inv (attachSource answers s) := by
  cases inj : s.inj with
  | none =>
    rw [attachSource_idle s answers inj]
    exact inv.no_command inj rfl rfl inv.ibuf_le inv.obuf_le
  | some run =>
    obtain ⟨ok, err, -⟩ := inv.waiting run inj
    rw [attachSource_waiting s answers run inj]
    exact (inv.runDraws err (underway_of_runOk ok) answers).settle

theorem Inv.resetCore (inv : Inv s) : Inv (resetCore s) :=
  inv.no_command rfl rfl rfl (Nat.zero_le _) (Nat.zero_le _)

theorem Inv.transactIdle {e : HostEvent} (inv : Inv s) (inj : s.inj = none)
    (h : transactIdle e s = .next t) : Inv t := by
  cases e with
  | command d => exact inv.acceptCommand inj h
  | reset => cases h; exact inv.resetCore
  | attach answers => cases h; exact inv.attachSource answers
  | readStatus => cases h; exact inv
  | readIlen => cases h; exact inv
  | readOlen => cases h; exact inv
  | readOdata index => cases h; exact inv

theorem Inv.transactWaiting {e : HostEvent} (inv : Inv s) (h : transactWaiting e s = .next t) :
    Inv t := by
  cases e with
  | reset => cases h; exact inv.resetCore
  | attach answers => cases h; exact inv.attachSource answers
  | _ => cases h

end

/-- Settles O10: the invariant does not speak of the host's list, so it holds where the transaction
finds the core, and every transaction keeps it. -/
theorem everyStepKeepsTheInvariant : Obligations.EveryStepKeepsTheInvariant := by
  intro s t inv h
  cases host : s.host with
  | nil =>
    cases inj : s.inj with
    | none => rw [step_silent_idle s host inj] at h; cases h; exact inv
    | some run => rw [step_silent_waiting s host inj] at h; cases h
  | cons e rest =>
    have found : Inv { s with host := rest } := inv
    cases inj : s.inj with
    | none => rw [step_idle s host inj] at h; exact found.transactIdle inj h
    | some run => rw [step_waiting s host inj] at h; exact found.transactWaiting h

end Sys2Proof.Machine
end

section
/-! Descriptors, as 30_encoding.md lays them down (R71 to R81). -/

namespace Sys2Proof

open Sys2Proof.Machine

/-! ## The literal in DATA -/

/-- R102's weights read bit by bit: the last bit of the sequence is bit 0 of its value. -/
theorem Machine.testBit_toInt (b : Bits) (i : Nat) :
    (toInt b).testBit i = b.reverse.getD i false := by
  induction b with
  | nil => simp [toInt_nil]
  | cons c b ih =>
    rw [toInt_cons, mul_comm, Nat.testBit_two_pow_mul_add _ (toInt_lt b), List.reverse_cons]
    split
    · next low => rw [ih, List.getD_append _ _ _ _ (by simpa using low)]
    · next high =>
      rw [List.getD_append_right _ _ _ _ (by simpa using high), List.length_reverse]
      cases i - b.length <;> cases c <;> simp [Nat.testBit_succ]

theorem getLsbD_dataOfBits {b : Bits} (fits : b.length ≤ Config.literalMax) (i : Nat) :
    (dataOfBits b).getLsbD i = b.reverse.getD i false := by
  have small : toInt b < 2 ^ 64 := (toInt_lt b).trans_le (Nat.pow_le_pow_right (by decide) fits)
  rw [← testBit_toInt, dataOfBits, ← BitVec.testBit_toNat, BitVec.toNat_ofNat,
    Nat.mod_eq_of_lt small]

theorem dataOfBits_nil : dataOfBits [] = 0 := rfl

@[simp] theorem bitsOfData_length (k : Nat) (data : BitVec 64) :
    (bitsOfData k data).length = k := by
  simp [bitsOfData]

theorem getElem_bitsOfData (k : Nat) (data : BitVec 64) {j : Nat}
    (h : j < (bitsOfData k data).length) :
    (bitsOfData k data)[j] = data.getLsbD (k - 1 - j) := by
  simp [bitsOfData]

theorem bitsOfData_dataOfBits {b : Bits} (fits : b.length ≤ Config.literalMax) :
    bitsOfData b.length (dataOfBits b) = b := by
  refine List.ext_getElem (by simp) fun j _ lt => ?_
  rw [getElem_bitsOfData, getLsbD_dataOfBits fits,
    List.getD_eq_getElem _ _ (by rw [List.length_reverse]; omega), List.getElem_reverse]
  congr 1
  omega

theorem dataOfBits_bitsOfData {k : Nat} {data : BitVec 64} (fits : k ≤ Config.literalMax)
    (above : data >>> k = 0) : dataOfBits (bitsOfData k data) = data := by
  ext i hi
  rw [← BitVec.getLsbD_eq_getElem, ← BitVec.getLsbD_eq_getElem,
    getLsbD_dataOfBits (by simpa using fits)]
  obtain lt | le := Nat.lt_or_ge i k
  · rw [List.getD_eq_getElem _ _ (by simpa using lt), List.getElem_reverse, getElem_bitsOfData]
    simp only [bitsOfData_length]
    congr 1
    omega
  · rw [List.getD_eq_default _ _ (by simpa using le)]
    have zero : (data >>> k).getLsbD (i - k) = false := by rw [above]; exact BitVec.getLsbD_zero
    rwa [BitVec.getLsbD_ushiftRight, Nat.add_sub_cancel' le, eq_comm] at zero

/-! ## The opcode -/

theorem opcodeOf_eq_some_iff {byte : BitVec 8} {o : Opcode} :
    opcodeOf byte = some o ↔ byte = opcodeByte o := by
  constructor
  · intro h
    obtain ⟨row, found, rfl⟩ := Option.map_eq_some_iff.mp h
    have same : row.1 = byte := by simpa using List.find?_some found
    have tabled : ∀ row ∈ opcodeTable, row.1 = opcodeByte row.2 := by decide
    rw [← same, tabled row (List.mem_of_find?_eq_some found)]
  · rintro rfl
    exact opcodeOf_opcodeByte o

/-! ## What each part of the decoder accepts

The fields a command is read from, each part once: exactly those the encoder writes. -/

section
variable {f : Fields} {o : Opcode} {i : Instr}

theorem map_eq_ok_iff {α β ε : Type} {x : Except ε α} {g : α → β} {y : β} :
    x.map g = .ok y ↔ ∃ a, x = .ok a ∧ y = g a := by
  cases x <;> simp [Except.map, eq_comm]

/-- A check of the decoder is passed when its condition fails. -/
theorem check_eq_ok_iff {α ε : Type} {c : Prop} [Decidable c] {e : ε} {x : Except ε α} {y : α} :
    (if c then .error e else x) = .ok y ↔ ¬ c ∧ x = .ok y := by
  split <;> simp [*]

theorem ushiftRight_length_dataOfBits {b : Bits} (fits : b.length ≤ Config.literalMax) :
    dataOfBits b >>> b.length = 0 := by
  refine BitVec.eq_of_getLsbD_eq fun i _ => ?_
  rw [BitVec.getLsbD_ushiftRight, getLsbD_dataOfBits fits, List.getD_eq_default _ _ (by simp)]
  exact BitVec.getLsbD_zero.symm

theorem toNat_ofNat_length {b : Bits} (fits : b.length ≤ Config.literalMax) :
    (BitVec.ofNat 8 b.length).toNat = b.length := by
  rw [BitVec.toNat_ofNat]
  exact Nat.mod_eq_of_lt (fits.trans_lt (by decide))

/-- R75, R77 and R78 (f), (g): the literal is the one sequence that N and DATA stand for. -/
theorem decodeLiteral_eq_ok_iff {b : Bits} : decodeLiteral f = .ok b ↔
    b.length ≤ Config.literalMax ∧ f.n = BitVec.ofNat 8 b.length ∧ f.data = dataOfBits b := by
  simp only [decodeLiteral, check_eq_ok_iff, not_lt, not_not, Except.ok.injEq]
  constructor
  · rintro ⟨fits, above, rfl⟩
    rw [bitsOfData_length]
    exact ⟨fits, by simp, (dataOfBits_bitsOfData fits above).symm⟩
  · rintro ⟨fits, n, data⟩
    rw [n, data, toNat_ofNat_length fits]
    exact ⟨fits, ushiftRight_length_dataOfBits fits, bitsOfData_dataOfBits fits⟩

theorem decodeNamed_eq_ok_iff {p q : Poly} :
    decodeNamed f p = .ok q ↔ q = p ∧ f.n = 0 ∧ f.data = 0 := by
  simp only [decodeNamed, check_eq_ok_iff, Except.ok.injEq, not_or, not_not]
  tauto

/-- R74: a literal, one of the four names, or a reserved selector. -/
theorem selector_cases (psel : BitVec 4) :
    psel = 1 ∨ (∃ p : Poly, (∀ b, p ≠ .literal b) ∧ psel = polySelector p) ∨
      psel = 0 ∨ 6 ≤ psel.toNat := by
  have all : psel = 1 ∨ (psel = 2 ∨ psel = 3 ∨ psel = 4 ∨ psel = 5) ∨
      psel = 0 ∨ 6 ≤ psel.toNat := by revert psel; decide
  refine all.imp_right (.imp_left ?_)
  rintro (rfl | rfl | rfl | rfl)
  · exact ⟨.crc8, nofun, rfl⟩
  · exact ⟨.crc10, nofun, rfl⟩
  · exact ⟨.crc16, nofun, rfl⟩
  · exact ⟨.crc32, nofun, rfl⟩

theorem decodePoly_literal (h : f.psel = 1) : decodePoly f = (decodeLiteral f).map .literal := by
  simp [decodePoly, h]

theorem decodePoly_named {p : Poly} (named : ∀ b, p ≠ .literal b) (h : f.psel = polySelector p) :
    decodePoly f = decodeNamed f p := by
  cases p with
  | literal b => exact absurd rfl (named b)
  | _ => simp [decodePoly, h, polySelector]

theorem decodePoly_reserved (h : f.psel = 0 ∨ 6 ≤ f.psel.toNat) :
    decodePoly f = .error .reservedSelector := by
  unfold decodePoly
  obtain zero | high := h
  · rw [zero]; rfl
  · split
    case h_6 => rfl
    all_goals omega

/-- A name leaves the literal empty (R73). -/
theorem polyLiteral_of_named {p : Poly} (named : ∀ b, p ≠ .literal b) : polyLiteral p = [] := by
  cases p with
  | literal b => exact absurd rfl (named b)
  | _ => rfl

theorem Poly.wellFormed_iff (p : Poly) :
    p.wellFormed = true ↔ (polyLiteral p).length ≤ Config.literalMax := by
  cases p <;> simp [Poly.wellFormed, polyLiteral]

theorem decodePoly_eq_ok_iff {p : Poly} : decodePoly f = .ok p ↔
    p.wellFormed = true ∧ f.psel = polySelector p ∧
      f.n = BitVec.ofNat 8 (polyLiteral p).length ∧ f.data = dataOfBits (polyLiteral p) := by
  rw [p.wellFormed_iff]
  constructor
  · intro h
    obtain literal | ⟨q, named, selector⟩ | reserved := selector_cases f.psel
    · rw [decodePoly_literal literal, map_eq_ok_iff] at h
      obtain ⟨b, ok, rfl⟩ := h
      obtain ⟨fits, carried⟩ := decodeLiteral_eq_ok_iff.mp ok
      exact ⟨fits, literal, carried⟩
    · rw [decodePoly_named named selector, decodeNamed_eq_ok_iff] at h
      obtain ⟨rfl, carried⟩ := h
      rw [polyLiteral_of_named named]
      exact ⟨Nat.zero_le _, selector, carried⟩
    · rw [decodePoly_reserved reserved] at h
      cases h
  · rintro ⟨fits, selector, carried⟩
    by_cases named : ∀ b, p ≠ .literal b
    · rw [decodePoly_named named selector, decodeNamed_eq_ok_iff]
      rw [polyLiteral_of_named named] at carried
      exact ⟨rfl, carried⟩
    · obtain ⟨b, rfl⟩ : ∃ b, p = .literal b := by simpa using named
      rw [decodePoly_literal selector, map_eq_ok_iff]
      exact ⟨b, decodeLiteral_eq_ok_iff.mpr ⟨fits, carried⟩, rfl⟩

/-! ## What the decoder accepts for each opcode

`o` is the opcode in OP, and ZERO is 0. -/

section
variable (head : f.op = opcodeByte o ∧ f.zero = 0)
include head

theorem eq_fieldsWith_iff {psel : BitVec 4} {imm : Imm} {b : Bits} :
    f = fieldsWith o psel imm b ↔ f.psel = psel ∧ f.imm = imm ∧
      f.n = BitVec.ofNat 8 b.length ∧ f.data = dataOfBits b := by
  cases f
  obtain ⟨rfl, rfl⟩ := head
  simp only [fieldsWith, Fields.mk.injEq]
  tauto

theorem decodePlain_eq_ok_iff {j : Instr} :
    decodePlain f i = .ok j ↔ j = i ∧ f = fieldsWith o 0 0 [] := by
  simp only [decodePlain, check_eq_ok_iff, eq_fieldsWith_iff head, dataOfBits_nil, not_or, not_not,
    Except.ok.injEq, List.length_nil, BitVec.ofNat_eq_ofNat]
  tauto

theorem decodeImm_eq_ok_iff {g : Imm → Instr} :
    decodeImm f g = .ok i ↔ ∃ imm, i = g imm ∧ f = fieldsWith o 0 imm [] := by
  simp only [decodeImm, check_eq_ok_iff, eq_fieldsWith_iff head, dataOfBits_nil, not_or, not_not,
    Except.ok.injEq, List.length_nil, BitVec.ofNat_eq_ofNat]
  constructor
  · rintro ⟨⟨psel, n, data⟩, rfl⟩
    exact ⟨f.imm, rfl, psel, rfl, n, data⟩
  · rintro ⟨imm, rfl, psel, rfl, n, data⟩
    exact ⟨⟨psel, n, data⟩, rfl⟩

theorem decodePush_eq_ok_iff :
    decodePush f = .ok i ↔
      ∃ b : Bits, b.length ≤ Config.literalMax ∧ i = .push b ∧ f = fieldsWith o 0 0 b := by
  simp only [decodePush, check_eq_ok_iff, map_eq_ok_iff, decodeLiteral_eq_ok_iff,
    eq_fieldsWith_iff head, not_or, not_not]
  constructor
  · rintro ⟨⟨psel, imm⟩, b, ⟨fits, carried⟩, rfl⟩
    exact ⟨b, fits, rfl, psel, imm, carried⟩
  · rintro ⟨b, fits, rfl, psel, imm, carried⟩
    exact ⟨⟨psel, imm⟩, b, ⟨fits, carried⟩, rfl⟩

theorem decodeCrc_eq_ok_iff {g : Poly → Instr} :
    decodeCrc f g = .ok i ↔ ∃ p, p.wellFormed = true ∧ i = g p ∧
      f = fieldsWith o (polySelector p) 0 (polyLiteral p) := by
  simp only [decodeCrc, check_eq_ok_iff, map_eq_ok_iff, decodePoly_eq_ok_iff,
    eq_fieldsWith_iff head, not_not]
  constructor
  · rintro ⟨imm, p, ⟨wf, psel, carried⟩, rfl⟩
    exact ⟨p, wf, rfl, psel, imm, carried⟩
  · rintro ⟨p, wf, rfl, psel, imm, carried⟩
    exact ⟨imm, p, ⟨wf, psel, carried⟩, rfl⟩

theorem decodeUnd_eq_ok_iff :
    decodeUnd f = .ok i ↔ ∃ p shift, p.wellFormed = true ∧ i = .injUnd p shift ∧
      f = fieldsWith o (polySelector p) shift (polyLiteral p) := by
  simp only [decodeUnd, map_eq_ok_iff, decodePoly_eq_ok_iff, eq_fieldsWith_iff head]
  constructor
  · rintro ⟨p, ⟨wf, psel, carried⟩, rfl⟩
    exact ⟨p, f.imm, wf, rfl, psel, rfl, carried⟩
  · rintro ⟨p, shift, wf, rfl, psel, rfl, carried⟩
    exact ⟨p, ⟨wf, psel, carried⟩, rfl⟩

/-- R73: the operands of an opcode are read from the fields the encoder writes for a well-formed
command with that opcode, and from no others. -/
theorem decodeOperands_eq_ok_iff :
    decodeOperands f o = .ok i ↔
      opcodeOfInstr i = o ∧ i.wellFormed = true ∧ f = encodeFields i := by
  constructor
  · intro h
    cases o with
    | push =>
      obtain ⟨b, fits, rfl, rfl⟩ := (decodePush_eq_ok_iff head).mp h
      exact ⟨rfl, decide_eq_true fits, rfl⟩
    | crcDiv | crcGen | crcVfy =>
      obtain ⟨p, wf, rfl, rfl⟩ := (decodeCrc_eq_ok_iff head).mp h
      exact ⟨rfl, wf, rfl⟩
    | injRnd | injBst =>
      obtain ⟨imm, rfl, rfl⟩ := (decodeImm_eq_ok_iff head).mp h
      exact ⟨rfl, rfl, rfl⟩
    | injUnd =>
      obtain ⟨p, shift, wf, rfl, rfl⟩ := (decodeUnd_eq_ok_iff head).mp h
      exact ⟨rfl, wf, rfl⟩
    | nop | clr | mov | cksGen | cksVfy | injOdd =>
      obtain ⟨rfl, rfl⟩ := (decodePlain_eq_ok_iff head).mp h
      exact ⟨rfl, rfl, rfl⟩
  · rintro ⟨rfl, wf, encoded⟩
    cases i with
    | push b => exact (decodePush_eq_ok_iff head).mpr ⟨b, of_decide_eq_true wf, rfl, encoded⟩
    | crcDiv p | crcGen p | crcVfy p =>
      exact (decodeCrc_eq_ok_iff head).mpr ⟨p, wf, rfl, encoded⟩
    | injRnd imm | injBst imm => exact (decodeImm_eq_ok_iff head).mpr ⟨imm, rfl, encoded⟩
    | injUnd p shift => exact (decodeUnd_eq_ok_iff head).mpr ⟨p, shift, wf, rfl, encoded⟩
    | nop | clr | mov | cksGen | cksVfy | injOdd =>
      exact (decodePlain_eq_ok_iff head).mpr ⟨rfl, encoded⟩

end

/-- Every command has its opcode in OP, and ZERO is 0 (R72, R73). -/
theorem encodeFields_head (i : Instr) :
    (encodeFields i).op = opcodeByte (opcodeOfInstr i) ∧ (encodeFields i).zero = 0 := by
  cases i <;> exact ⟨rfl, rfl⟩

theorem decodeFields_eq_ok_iff :
    decodeFields f = .ok i ↔ i.wellFormed = true ∧ f = encodeFields i := by
  unfold decodeFields
  constructor
  · intro h
    split at h
    · cases h
    · next o found =>
      obtain ⟨zero, ok⟩ := check_eq_ok_iff.mp h
      have head := And.intro (opcodeOf_eq_some_iff.mp found) (not_not.mp zero)
      exact ((decodeOperands_eq_ok_iff head).mp ok).2
  · rintro ⟨wf, rfl⟩
    have head := encodeFields_head i
    rw [head.1, opcodeOf_opcodeByte]
    have operands := (decodeOperands_eq_ok_iff head).mpr ⟨rfl, wf, rfl⟩
    exact check_eq_ok_iff.mpr ⟨not_not.mpr head.2, operands⟩

end

/-! ## A descriptor and its command -/

/-- A descriptor is put together from its fields: no bit of it is outside R71's format. -/
theorem ofFields_fieldsOf (d : Descriptor) : ofFields (fieldsOf d) = d := by
  refine BitVec.eq_of_getLsbD_eq fun i lt => ?_
  rw [getLsbD_ofFields]
  simp only [fieldsOf, BitVec.getLsbD_extractLsb']
  split_ifs <;> rw [decide_eq_true (by omega), Bool.true_and] <;>
    exact congrArg d.getLsbD (by omega)

theorem decode_eq_command_iff {d : Descriptor} {i : Instr} :
    decode d = .command i ↔ i.wellFormed = true ∧ encode i = d := by
  have fields : decode d = .command i ↔ decodeFields (fieldsOf d) = .ok i := by
    unfold decode
    cases decodeFields (fieldsOf d) <;> simp
  have same : fieldsOf d = encodeFields i ↔ encode i = d := by
    constructor
    · intro h
      rw [encode, ← h, ofFields_fieldsOf]
    · rintro rfl
      exact fieldsOf_ofFields _
  rw [fields, decodeFields_eq_ok_iff, same]

/-- Settles O2: one direction of `decode_eq_command_iff`. -/
theorem decodeOfEncodeIsTheCommand : Obligations.DecodeOfEncodeIsTheCommand :=
  fun _ wf => decode_eq_command_iff.mpr ⟨wf, rfl⟩

/-- Settles O3: the other direction of `decode_eq_command_iff`. -/
theorem encodeOfDecodeIsTheDescriptor : Obligations.EncodeOfDecodeIsTheDescriptor :=
  fun _ _ => decode_eq_command_iff.mp

end Sys2Proof
end

section
/-! The literals and the illegal descriptors, as 30_encoding.md lays them down (R75, R77, R78). -/

namespace Sys2Proof

open Sys2Proof.Machine

/-! ## The bits of a literal -/

theorem getElem?_eq_getLsbD_dataOfBits {b : Bits} (fits : b.length ≤ Config.literalMax) {j : Nat}
    (lt : j < b.length) : b[j]? = some ((dataOfBits b).getLsbD (b.length - 1 - j)) := by
  rw [← getElem_bitsOfData b.length (dataOfBits b) (by simpa using lt),
    ← List.getElem?_eq_getElem]
  exact congrArg (·[j]?) (bitsOfData_dataOfBits fits).symm

/-- The commands with a literal operand: PUSH (R77) and the four with a polynomial (R75). -/
inductive HasLiteral (b : Bits) : Instr → Prop where
  | push : HasLiteral b (.push b)
  | crcDiv : HasLiteral b (.crcDiv (.literal b))
  | crcGen : HasLiteral b (.crcGen (.literal b))
  | crcVfy : HasLiteral b (.crcVfy (.literal b))
  | injUnd (shift : Imm) : HasLiteral b (.injUnd (.literal b) shift)

theorem HasLiteral.carried {b : Bits} {i : Instr} (h : HasLiteral b i) (wf : i.wellFormed = true) :
    b.length ≤ Config.literalMax ∧ (encodeFields i).n = BitVec.ofNat 8 b.length ∧
      (encodeFields i).data = dataOfBits b := by
  cases h <;> exact ⟨of_decide_eq_true wf, rfl, rfl⟩

/-- Settles O5: the fields of the descriptor are those of the command it decodes to (O3). -/
theorem literalBitsComeFromData : Obligations.LiteralBitsComeFromData := by
  intro d i b decoded operand
  have literal : HasLiteral b i := by
    obtain rfl | rfl | rfl | rfl | ⟨shift, rfl⟩ := operand <;> constructor
  obtain ⟨wf, rfl⟩ := decode_eq_command_iff.mp decoded
  obtain ⟨fits, n, data⟩ := literal.carried wf
  rw [encode, fieldsOf_ofFields, n, data, toNat_ofNat_length fits]
  exact ⟨rfl, fun j lt => getElem?_eq_getLsbD_dataOfBits fits lt⟩

/-! ## The illegal descriptors -/

/-- The decoder, or a part of it, answers one of R78's reasons. -/
def Rejects {α : Type} (x : Except Illegal α) : Prop := ∃ why, x = .error why

@[simp] theorem rejects_error {α : Type} (why : Illegal) :
    Rejects (.error why : Except Illegal α) := ⟨why, rfl⟩

@[simp] theorem not_rejects_ok {α : Type} (a : α) : ¬ Rejects (.ok a) := nofun

@[simp] theorem rejects_map {α β : Type} (g : α → β) (x : Except Illegal α) :
    Rejects (x.map g) ↔ Rejects x := by
  cases x <;> simp [Except.map]

@[simp] theorem rejects_check {α : Type} (c : Prop) [Decidable c] (why : Illegal)
    (x : Except Illegal α) : Rejects (if c then .error why else x) ↔ c ∨ Rejects x := by
  split <;> simp [*]

section
variable (f : Fields)

theorem ushiftRight_ne_zero_iff (data : BitVec 64) (n : Nat) :
    data >>> n ≠ 0 ↔ ∃ j, n ≤ j ∧ j < 64 ∧ data.getLsbD j = true := by
  constructor
  · intro nonzero
    by_contra noBit
    refine nonzero (BitVec.eq_of_getLsbD_eq fun i _ => ?_)
    rw [BitVec.getLsbD_ushiftRight, Bool.eq_iff_iff]
    refine iff_of_false (fun bit => noBit ?_) (by simp)
    exact ⟨n + i, Nat.le_add_right n i, BitVec.lt_of_getLsbD bit, bit⟩
  · rintro ⟨j, le, -, bit⟩ zero
    have shifted : (data >>> n).getLsbD (j - n) = false := by rw [zero]; exact BitVec.getLsbD_zero
    rw [BitVec.getLsbD_ushiftRight, Nat.add_sub_cancel' le, bit] at shifted
    cases shifted

theorem rejects_decodeLiteral : Rejects (decodeLiteral f) ↔
    64 < f.n.toNat ∨ ∃ j, f.n.toNat ≤ j ∧ j < 64 ∧ f.data.getLsbD j = true := by
  simp only [decodeLiteral, rejects_check, not_rejects_ok, or_false, ushiftRight_ne_zero_iff]

theorem rejects_decodePoly : Rejects (decodePoly f) ↔
    (f.psel = 0 ∨ 6 ≤ f.psel.toNat) ∨
      (2 ≤ f.psel.toNat ∧ f.psel.toNat ≤ 5 ∧ (f.n ≠ 0 ∨ f.data ≠ 0)) ∨
      (f.psel = 1 ∧ (64 < f.n.toNat ∨
        ∃ j, f.n.toNat ≤ j ∧ j < 64 ∧ f.data.getLsbD j = true)) := by
  obtain literal | ⟨p, named, selector⟩ | reserved := selector_cases f.psel
  · rw [decodePoly_literal literal, rejects_map, rejects_decodeLiteral, literal]
    simp
  · rw [decodePoly_named named selector, decodeNamed, rejects_check, selector]
    cases p with
    | literal b => exact absurd rfl (named b)
    | _ => simp [polySelector]
  · rw [decodePoly_reserved reserved]
    simp only [rejects_error, reserved, true_or]

theorem rejects_decodePlain (i : Instr) : Rejects (decodePlain f i) ↔
    f.psel ≠ 0 ∨ f.n ≠ 0 ∨ f.imm ≠ 0 ∨ f.data ≠ 0 := by
  simp only [decodePlain, rejects_check, not_rejects_ok, or_false]

theorem rejects_decodeImm (g : Imm → Instr) : Rejects (decodeImm f g) ↔
    f.psel ≠ 0 ∨ f.n ≠ 0 ∨ f.data ≠ 0 := by
  simp only [decodeImm, rejects_check, not_rejects_ok, or_false]

theorem rejects_decodePush : Rejects (decodePush f) ↔
    f.psel ≠ 0 ∨ f.imm ≠ 0 ∨ Rejects (decodeLiteral f) := by
  simp only [decodePush, rejects_check, rejects_map, or_assoc]

theorem rejects_decodeCrc (g : Poly → Instr) : Rejects (decodeCrc f g) ↔
    f.imm ≠ 0 ∨ Rejects (decodePoly f) := by
  simp only [decodeCrc, rejects_check, rejects_map]

theorem rejects_decodeUnd : Rejects (decodeUnd f) ↔ Rejects (decodePoly f) := by
  simp only [decodeUnd, rejects_map]

/-- The opcodes with a polynomial operand (R73). -/
def TakesPoly : Prop := f.op = 0x20 ∨ f.op = 0x21 ∨ f.op = 0x22 ∨ f.op = 0x33

/-- The commands with a literal operand (R75, R77). -/
def TakesLiteral : Prop := f.op = 0x02 ∨ (TakesPoly f ∧ f.psel = 1)

/-- R78's conditions on the fields, (a) to (g) in its order. -/
def IllegalFields : Prop :=
  (f.op ∉ [0x00, 0x01, 0x02, 0x03, 0x10, 0x11, 0x20, 0x21, 0x22, 0x30, 0x31, 0x32, 0x33]) ∨
  f.zero ≠ 0 ∨
  ((¬ TakesPoly f ∧ f.psel ≠ 0) ∨ (¬ TakesPoly f ∧ f.op ≠ 0x02 ∧ (f.n ≠ 0 ∨ f.data ≠ 0)) ∨
    (f.op ≠ 0x30 ∧ f.op ≠ 0x31 ∧ f.op ≠ 0x33 ∧ f.imm ≠ 0)) ∨
  (TakesPoly f ∧ (f.psel = 0 ∨ 6 ≤ f.psel.toNat)) ∨
  (2 ≤ f.psel.toNat ∧ f.psel.toNat ≤ 5 ∧ (f.n ≠ 0 ∨ f.data ≠ 0)) ∨
  (TakesLiteral f ∧ 64 < f.n.toNat) ∨
  (TakesLiteral f ∧ ∃ j, f.n.toNat ≤ j ∧ j < 64 ∧ f.data.getLsbD j = true)

variable {f}

/-- R78 opcode by opcode: of conditions (c) to (g) those remain that its operands can meet. -/
theorem rejects_decodeOperands_iff {o : Opcode} (op : f.op = opcodeByte o) (zero : f.zero = 0) :
    Rejects (decodeOperands f o) ↔ IllegalFields f := by
  have named : 2 ≤ f.psel.toNat → f.psel ≠ 0#4 := by rintro le eq; simp [eq] at le
  rw [IllegalFields, TakesLiteral, TakesPoly, op, zero]
  cases o with
  | nop | clr | mov | cksGen | cksVfy | injOdd =>
    rw [decodeOperands, rejects_decodePlain]
    simp [opcodeByte, opcodeTable]
    tauto
  | injRnd | injBst =>
    rw [decodeOperands, rejects_decodeImm]
    simp [opcodeByte, opcodeTable]
    tauto
  | push =>
    rw [decodeOperands, rejects_decodePush, rejects_decodeLiteral]
    simp [opcodeByte, opcodeTable]
    tauto
  | crcDiv | crcGen | crcVfy =>
    rw [decodeOperands, rejects_decodeCrc, rejects_decodePoly]
    simp [opcodeByte, opcodeTable, and_or_left]
  | injUnd =>
    rw [decodeOperands, rejects_decodeUnd, rejects_decodePoly]
    simp [opcodeByte, opcodeTable, and_or_left]

theorem opcodeOf_listed_ne_none : ∀ byte ∈ [0x00, 0x01, 0x02, 0x03, 0x10, 0x11, 0x20, 0x21, 0x22,
    0x30, 0x31, 0x32, 0x33], opcodeOf byte ≠ none := by decide

theorem rejects_decodeFields_iff : Rejects (decodeFields f) ↔ IllegalFields f := by
  unfold decodeFields
  cases found : opcodeOf f.op with
  | none =>
    exact iff_of_true (rejects_error _) (.inl fun listed => opcodeOf_listed_ne_none _ listed found)
  | some o =>
    by_cases zero : f.zero = 0
    · have operands := rejects_decodeOperands_iff (opcodeOf_eq_some_iff.mp found) zero
      simpa [zero] using operands
    · exact iff_of_true ((rejects_check ..).mpr (.inl zero)) (.inr (.inl zero))

end

theorem decode_illegal_iff (d : Descriptor) :
    (∃ why, decode d = .illegal why) ↔ IllegalFields (fieldsOf d) := by
  rw [← rejects_decodeFields_iff, Rejects, decode]
  cases decodeFields (fieldsOf d) <;> simp

/-- Settles O4: R78 is `decode_illegal_iff`, and `raise` records the fault where none stands. -/
theorem illegalDescriptorsAreThoseOfTheRule : Obligations.IllegalDescriptorsAreThoseOfTheRule := by
  refine fun d => ⟨decode_illegal_iff d, fun illegal s ⟨err, _⟩ => ?_⟩
  obtain ⟨why, decoded⟩ := (decode_illegal_iff d).mpr illegal
  rw [runDescriptor_illegal s d why decoded, raise, recordFault_of_none s .illegal err]

/-! ## Descriptors written out -/

/-- Settles O1: seven closed evaluations of the decoder. -/
theorem specDescriptorsDecode : Obligations.SpecDescriptorsDecode := by
  unfold Obligations.SpecDescriptorsDecode
  decide

/-- Settles O6: six closed evaluations of the assembler and the encoder. -/
theorem assembledLinesHaveTheirDescriptors : Obligations.AssembledLinesHaveTheirDescriptors := by
  unfold Obligations.AssembledLinesHaveTheirDescriptors
  decide

end Sys2Proof
end

section
/-! The pseudo-command LOAD, as 30_encoding.md lays it down (R87): its pieces, and what a script
of CLR and PUSH leaves. -/

namespace Sys2Proof.Machine

/-! ## The pieces LOAD pushes -/

theorem flatten_map_slice (b : Bits) (n : Nat) :
    ((List.range n).map fun i => slice b (64 * i) (64 * i + 64)).flatten = b.take (64 * n) := by
  induction n with
  | zero => simp
  | succ n ih =>
    rw [List.range_succ, List.map_append, List.flatten_append, ih, Nat.mul_succ, List.take_add]
    simp [slice]

theorem loadPieces_flatten (b : Bits) : (loadPieces b).flatten = b := by
  rw [loadPieces, flatten_map_slice, List.take_of_length_le (by omega)]

theorem loadPieces_length (b : Bits) : (loadPieces b).length = (b.length + 63) / 64 := by
  simp [loadPieces]

theorem length_of_loadPieces_getElem? {b piece : Bits} {k : Nat}
    (h : (loadPieces b)[k]? = some piece) : piece.length = min 64 (b.length - 64 * k) := by
  obtain ⟨lt, rfl⟩ := List.getElem?_eq_some_iff.mp h
  simp [loadPieces]

theorem length_of_mem_loadPieces {b piece : Bits} (h : piece ∈ loadPieces b) :
    piece.length ≤ Config.literalMax := by
  obtain ⟨k, h⟩ := List.mem_iff_getElem?.mp h
  rw [length_of_loadPieces_getElem? h]
  exact Nat.min_le_left _ _

/-! ## A script of CLR and PUSH -/

/-- A command issued as its descriptor runs, and CORE settles (R40, R33). -/
theorem acceptCommand_encode {i : Instr} {s t : State} (wf : i.wellFormed = true)
    (err : s.err = none) (run : exec i s = .next t) :
    acceptCommand (encode i) s = .next (settle t) := by
  rw [acceptCommand_ready s _ err,
    runDescriptor_command s _ i (decode_eq_command_iff.mpr ⟨wf, rfl⟩), run, afterCommand_next]

theorem issueAll_cons {i : Instr} {rest : List Instr} {s t : State} (wf : i.wellFormed = true)
    (ready : Ready s) (run : exec i s = .next t) :
    issueAll (i :: rest) s = issueAll rest (settle t) := by
  simp only [issueAll, ready.2, acceptCommand_encode wf ready.1 run]

theorem exec_push_of_fits {b : Bits} {s : State} (fits : s.ibuf.length + b.length ≤ s.maxLen) :
    exec (.push b) s = .next (setIbuf (s.ibuf ++ b) s) := if_neg (not_lt.mpr fits)

/-- Two states that differ at most in IBUF, the hidden registers and the free values (R13, R33):
what a script of CLR and PUSH writes. -/
def SameButIbuf (s t : State) : Prop :=
  { s with ibuf := [], acc := 0, sr := 0, gLatch := 0, tick := 0 } =
    { t with ibuf := [], acc := 0, sr := 0, gLatch := 0, tick := 0 }

theorem sameButIbuf_settle_setIbuf (b : Bits) (s : State) :
    SameButIbuf s (settle (setIbuf b s)) := rfl

theorem issueAll_pushes {pieces : List Bits} {s : State} (ready : Ready s)
    (short : ∀ piece ∈ pieces, piece.length ≤ Config.literalMax)
    (fits : s.ibuf.length + pieces.flatten.length ≤ s.maxLen) :
    ∃ t, issueAll (pieces.map .push) s = .next t ∧ t.ibuf = s.ibuf ++ pieces.flatten ∧
      SameButIbuf s t := by
  induction pieces generalizing s with
  | nil => exact ⟨s, rfl, by simp, rfl⟩
  | cons b rest ih =>
    rw [List.flatten_cons, List.length_append, ← Nat.add_assoc] at fits
    have wf : (Instr.push b).wellFormed = true := decide_eq_true (short b List.mem_cons_self)
    have run := exec_push_of_fits (Nat.le_of_add_right_le fits)
    obtain ⟨t, issued, ibuf, same⟩ := ih (s := settle (setIbuf (s.ibuf ++ b) s)) ready
      (fun piece mem => short piece (List.mem_cons_of_mem b mem)) (by simpa using fits)
    refine ⟨t, ?_, ?_, (sameButIbuf_settle_setIbuf (s.ibuf ++ b) s).trans same⟩
    · rw [List.map_cons, issueAll_cons wf ready run, issued]
    · simpa using ibuf

theorem issueAll_load {b : Bits} {s : State} (ready : Ready s) (fits : b.length ≤ s.maxLen) :
    ∃ t, issueAll (load b) s = .next t ∧ t.ibuf = b ∧ SameButIbuf s t := by
  obtain ⟨t, issued, ibuf, same⟩ := issueAll_pushes (pieces := loadPieces b)
    (s := settle (setIbuf [] s)) ready (fun _ => length_of_mem_loadPieces)
    (by simpa [loadPieces_flatten] using fits)
  refine ⟨t, ?_, by simpa [loadPieces_flatten] using ibuf, same⟩
  rw [load, issueAll_cons rfl ready rfl, issued]

/-- Settles O22: the pieces are the slices of the string; CLR and the PUSHes write IBUF alone. -/
theorem loadLeavesTheString : Obligations.LoadLeavesTheString := by
  intro b s ready fits
  refine ⟨⟨loadPieces b, rfl, loadPieces_flatten b, loadPieces_length b,
    fun _ _ => length_of_loadPieces_getElem?⟩, ?_⟩
  obtain ⟨t, issued, ibuf, same⟩ := issueAll_load ready fits
  simp only [SameButIbuf, State.mk.injEq] at same
  obtain ⟨-, obuf, valid, err, -, -, -, inj, maxLen, host, answers, draws, reply, -⟩ := same
  exact ⟨t, issued, ibuf, obuf.symm, valid.symm, ⟨err ▸ ready.1, inj ▸ ready.2⟩, maxLen.symm,
    answers.symm, draws.symm, host.symm, reply.symm⟩

end Sys2Proof.Machine
end

section
/-! The host's wire-message adapter, as 30_encoding.md lays it down (R90 to R95). -/

namespace Sys2Proof.Machine

/-! ## The fields of a line -/

theorem splitAtChar_cons_sep (sep : Char) (rest : List Char) :
    splitAtChar sep (sep :: rest) = [] :: splitAtChar sep rest := if_pos rfl

theorem splitAtChar_ne_nil (sep : Char) (cs : List Char) : splitAtChar sep cs ≠ [] := by
  cases cs with
  | nil => exact List.cons_ne_nil _ _
  | cons c rest =>
    rw [splitAtChar]
    split
    · exact List.cons_ne_nil _ _
    · split <;> exact List.cons_ne_nil _ _

/-- A character that is no separator extends the first field. -/
theorem splitAtChar_cons_of_ne {sep c : Char} {rest f : List Char} {more : List (List Char)}
    (ne : c ≠ sep) (fields : splitAtChar sep rest = f :: more) :
    splitAtChar sep (c :: rest) = (c :: f) :: more := by
  simp [splitAtChar, ne, fields]

theorem splitAtChar_length (sep : Char) (cs : List Char) :
    (splitAtChar sep cs).length = cs.count sep + 1 := by
  induction cs with
  | nil => rfl
  | cons c rest ih =>
    by_cases eq : c = sep
    · subst eq
      rw [splitAtChar_cons_sep, List.length_cons, ih, List.count_cons_self]
    · obtain ⟨f, more, fields⟩ := List.exists_cons_of_ne_nil (splitAtChar_ne_nil sep rest)
      rw [splitAtChar_cons_of_ne eq fields, List.count_cons_of_ne eq, ← ih, fields,
        List.length_cons, List.length_cons]

theorem splitAtChar_of_notMem {sep : Char} {field : List Char} (clean : sep ∉ field) :
    splitAtChar sep field = [field] := by
  induction field with
  | nil => rfl
  | cons c rest ih =>
    rw [List.mem_cons, not_or] at clean
    obtain ⟨ne, clean⟩ := clean
    exact splitAtChar_cons_of_ne (Ne.symm ne) (ih clean)

theorem splitAtChar_append_sep {sep : Char} {field : List Char} (clean : sep ∉ field)
    (rest : List Char) :
    splitAtChar sep (field ++ sep :: rest) = field :: splitAtChar sep rest := by
  induction field with
  | nil => exact splitAtChar_cons_sep sep rest
  | cons c field ih =>
    rw [List.mem_cons, not_or] at clean
    obtain ⟨ne, clean⟩ := clean
    exact splitAtChar_cons_of_ne (Ne.symm ne) (ih clean)

/-! ## Bits and polynomials of a message -/

theorem bitOfChar_eq_none_iff (c : Char) : bitOfChar c = none ↔ ¬ (c = '0' ∨ c = '1') := by
  unfold bitOfChar
  split
  · simp
  · simp
  · next not0 not1 => exact iff_of_true rfl (not_or.mpr ⟨not0, not1⟩)

theorem bitsOfChars_cons (c : Char) (cs : List Char) :
    bitsOfChars (c :: cs) = (bitOfChar c).bind fun b => (bitsOfChars cs).map (b :: ·) := by
  rw [bitsOfChars, List.mapM_cons]
  simp only [Option.map_eq_bind]
  rfl

/-- Nothing is read exactly where a character is neither 0 nor 1. -/
theorem bitsOfChars_eq_none_iff (cs : List Char) :
    bitsOfChars cs = none ↔ ∃ c ∈ cs, ¬ (c = '0' ∨ c = '1') := by
  induction cs with
  | nil => simp [bitsOfChars]
  | cons c cs ih =>
    simp only [bitsOfChars_cons, List.mem_cons, exists_eq_or_imp, ← ih]
    rw [← bitOfChar_eq_none_iff]
    cases bitOfChar c <;> simp

theorem length_of_bitsOfChars {cs : List Char} {b : Bits} (h : bitsOfChars cs = some b) :
    b.length = cs.length := by
  induction cs generalizing b with
  | nil => cases h; rfl
  | cons c cs ih =>
    rw [bitsOfChars_cons] at h
    obtain ⟨bit, -, h⟩ := Option.bind_eq_some_iff.mp h
    obtain ⟨bits, read, rfl⟩ := Option.map_eq_some_iff.mp h
    rw [List.length_cons, List.length_cons, ih read]

/-- The four names of R85. -/
theorem polyNamed_eq_none_iff (cs : List Char) : polyNamed cs = none ↔
    cs ∉ ["CRC-8".toList, "CRC-10".toList, "CRC-16".toList, "CRC-32".toList] := by
  simp [polyNamed, polyTable, eq_comm (b := cs)]

theorem polyOfField_of_name {field : List Char} {p : Poly} (name : polyNamed field = some p) :
    polyOfField field = some p := by
  simp [polyOfField, name]

/-- No name is a bit string. -/
theorem polyNamed_of_bits {field : List Char} {b : Bits} (bits : bitsOfChars field = some b) :
    polyNamed field = none := by
  rw [polyNamed_eq_none_iff]
  intro name
  have unread : ∀ name ∈ ["CRC-8".toList, "CRC-10".toList, "CRC-16".toList, "CRC-32".toList],
      bitsOfChars name = none := by decide
  rw [unread field name] at bits
  cases bits

theorem polyOfField_of_bits {field : List Char} {b : Bits} (bits : bitsOfChars field = some b)
    (fits : b.length ≤ Config.literalMax) : polyOfField field = some (.literal b) := by
  simp [polyOfField, polyNamed_of_bits bits, bits, fits]

theorem polyOfField_eq_none {field : List Char} (name : polyNamed field = none)
    (bad : bitsOfChars field = none ∨ Config.literalMax < field.length) :
    polyOfField field = none := by
  unfold polyOfField
  rw [name]
  cases bits : bitsOfChars field with
  | none => rfl
  | some b =>
    have long := bad.resolve_left (by simp [bits])
    exact if_neg (by rw [length_of_bitsOfChars bits]; exact not_le.mpr long)

theorem isGroundTruth_iff (field : List Char) :
    isGroundTruth field = true ↔ field = ['0'] ∨ field = ['1'] := by
  simp [isGroundTruth]

/-! ## The messages -/

section
variable {polynomial error codeword : List Char}

theorem checksumMessage_commands {c : Bits} (bits : bitsOfChars codeword = some c)
    (empty : polynomial = []) (truth : isGroundTruth error = true) :
    checksumMessage polynomial error codeword = .commands (load c ++ [.cksVfy]) := by
  simp [checksumMessage, bits, empty, truth]

theorem checksumMessage_refused
    (bad : bitsOfChars codeword = none ∨ isGroundTruth error = false ∨ polynomial ≠ []) :
    checksumMessage polynomial error codeword = .refused := by
  unfold checksumMessage
  cases bits : bitsOfChars codeword with
  | none => rfl
  | some c =>
    refine if_neg fun ⟨empty, truth⟩ => ?_
    simp [bits, empty, truth] at bad

theorem crcMessage_commands {c : Bits} {p : Poly} (bits : bitsOfChars codeword = some c)
    (poly : polyOfField polynomial = some p) (truth : isGroundTruth error = true) :
    crcMessage polynomial error codeword = .commands (load c ++ [.crcVfy p]) := by
  simp [crcMessage, bits, poly, truth]

theorem crcMessage_refused
    (bad : bitsOfChars codeword = none ∨ isGroundTruth error = false ∨
      polyOfField polynomial = none) :
    crcMessage polynomial error codeword = .refused := by
  unfold crcMessage
  cases bits : bitsOfChars codeword with
  | none => rfl
  | some c =>
    cases poly : polyOfField polynomial with
    | none => rfl
    | some p => exact if_neg fun truth => by simp [bits, poly, truth] at bad

variable (polynomial error codeword)

theorem checksumMessage_ne_formatError :
    checksumMessage polynomial error codeword ≠ .formatError := by
  unfold checksumMessage
  split
  · split <;> nofun
  · nofun

theorem crcMessage_ne_formatError : crcMessage polynomial error codeword ≠ .formatError := by
  unfold crcMessage
  split
  · split <;> nofun
  · nofun

variable {polynomial error codeword}

variable {method line : List Char}

theorem readMessage_checksum
    (fields : splitAtChar ':' line = ["checksum".toList, polynomial, error, codeword]) :
    readMessage line = checksumMessage polynomial error codeword := by
  simp only [readMessage, fields, if_true]

theorem readMessage_crc
    (fields : splitAtChar ':' line = ["crc".toList, polynomial, error, codeword]) :
    readMessage line = crcMessage polynomial error codeword := by
  simp [readMessage, fields]

theorem readMessage_unknown
    (fields : splitAtChar ':' line = [method, polynomial, error, codeword])
    (not_checksum : method ≠ "checksum".toList) (not_crc : method ≠ "crc".toList) :
    readMessage line = .unknownMethodError := by
  simp only [readMessage, fields, if_neg not_checksum, if_neg not_crc]

theorem readMessage_ne_formatError
    (fields : splitAtChar ':' line = [method, polynomial, error, codeword]) :
    readMessage line ≠ .formatError := by
  by_cases checksum : method = "checksum".toList
  · subst checksum
    rw [readMessage_checksum fields]
    exact checksumMessage_ne_formatError polynomial error codeword
  by_cases crc : method = "crc".toList
  · subst crc
    rw [readMessage_crc fields]
    exact crcMessage_ne_formatError polynomial error codeword
  · rw [readMessage_unknown fields checksum crc]
    nofun

end

theorem readMessage_eq_formatError_iff (line : List Char) :
    readMessage line = .formatError ↔ line.count ':' ≠ 3 := by
  have colons : line.count ':' = 3 ↔ (splitAtChar ':' line).length = 4 := by
    rw [splitAtChar_length]
    omega
  rw [Ne, colons, List.length_eq_four]
  constructor
  · rintro error ⟨method, polynomial, truth, codeword, fields⟩
    exact readMessage_ne_formatError fields error
  · intro other
    unfold readMessage
    split
    · next fields => exact absurd ⟨_, _, _, _, fields⟩ other
    · rfl

theorem transactionsOf_commands (script : List Instr) :
    transactionsOf (.commands script) = script.map fun i => .command (encode i) := rfl

theorem transactionsOf_other {m : MessageResult} (other : ∀ script, m ≠ .commands script) :
    transactionsOf m = [] := by
  cases m with
  | commands script => exact absurd rfl (other script)
  | _ => rfl

/-- Settles O24: the fields of the line are those it is put together from, and each clause is the
lemma of its message. -/
theorem adapterReadsMessages : Obligations.AdapterReadsMessages := by
  refine ⟨readMessage_eq_formatError_iff, ?fields, ?transactions⟩
  case transactions =>
    refine fun line => ⟨fun script read => ?_, transactionsOf_other⟩
    rw [read, transactionsOf_commands]
  case fields =>
    intro method polynomial error codeword cleanM cleanP cleanE cleanC line isBit
    have fields : splitAtChar ':' line = [method, polynomial, error, codeword] := by
      rw [splitAtChar_append_sep cleanM, splitAtChar_append_sep cleanP,
        splitAtChar_append_sep cleanE, splitAtChar_of_notMem cleanC]
    have bad_bits : (∃ c ∈ codeword, ¬ isBit c) → bitsOfChars codeword = none :=
      (bitsOfChars_eq_none_iff codeword).mpr
    have bad_truth : error ≠ ['0'] ∧ error ≠ ['1'] → isGroundTruth error = false := fun bad =>
      Bool.eq_false_iff.mpr fun truth => not_or.mpr bad ((isGroundTruth_iff error).mp truth)
    refine ⟨readMessage_unknown fields, fun c bits truth => ⟨?_, ?_, ?_⟩, ?_, ?_, ?_⟩
    · rintro rfl empty
      rw [readMessage_checksum fields]
      exact checksumMessage_commands bits empty ((isGroundTruth_iff error).mpr truth)
    · rintro p rfl name
      rw [readMessage_crc fields]
      exact crcMessage_commands bits (polyOfField_of_name name)
        ((isGroundTruth_iff error).mpr truth)
    · rintro b rfl literal fits
      rw [readMessage_crc fields]
      exact crcMessage_commands bits (polyOfField_of_bits literal fits)
        ((isGroundTruth_iff error).mpr truth)
    · rintro (rfl | rfl) bad
      · rw [readMessage_checksum fields]
        exact checksumMessage_refused (bad.imp bad_bits (.inl ∘ bad_truth))
      · rw [readMessage_crc fields]
        exact crcMessage_refused (bad.imp bad_bits (.inl ∘ bad_truth))
    · rintro rfl nonempty
      rw [readMessage_checksum fields]
      exact checksumMessage_refused (.inr (.inr nonempty))
    · rintro rfl name bad
      rw [readMessage_crc fields]
      exact crcMessage_refused (.inr (.inr (polyOfField_eq_none
        ((polyNamed_eq_none_iff _).mpr name)
        (bad.imp_left (bitsOfChars_eq_none_iff polynomial).mpr))))

end Sys2Proof.Machine
end

section
/-! The primitives the units share, as 40_bitvector_buffer.md lays them down (R100 to R106): padLeft
and chunk, toInt and toBits, the end-around carry, flip. -/

namespace Sys2Proof.Machine

/-! ## padLeft and chunk -/

theorem dvd_padding (n : Nat) {b : Nat} (pos : 1 ≤ b) : b ∣ (b - n % b) % b + n := by
  have lt := Nat.mod_lt n pos
  rw [Nat.dvd_iff_mod_eq_zero, Nat.mod_add_mod, ← Nat.add_mod_mod, Nat.sub_add_cancel lt.le,
    Nat.mod_self]

/-- Two paddings to whole blocks agree modulo the block, and padLeft's is below it. -/
theorem padding_le {n r b : Nat} (pos : 1 ≤ b) (whole : b ∣ r + n) : (b - n % b) % b ≤ r := by
  have same : (b - n % b) % b + n ≡ r + n [MOD b] :=
    (Nat.modEq_zero_iff_dvd.mpr (dvd_padding n pos)).trans (Nat.modEq_zero_iff_dvd.mpr whole).symm
  calc (b - n % b) % b = r % b := by
        rw [← Nat.mod_mod]; exact same.add_right_cancel'
    _ ≤ r := Nat.mod_le r b

theorem flatten_map_slice_mul (s : Bits) (k n : Nat) :
    ((List.range n).map fun i => slice s (i * k) ((i + 1) * k)).flatten = s.take (n * k) := by
  induction n with
  | zero => simp
  | succ n ih =>
    rw [List.range_succ, List.map_append, List.flatten_append, ih, Nat.succ_mul, List.take_add]
    simp [slice, Nat.succ_mul]

theorem chunk_flatten {s : Bits} {k : Nat} (whole : k ∣ s.length) : (chunk s k).flatten = s := by
  rw [chunk, flatten_map_slice_mul, Nat.div_mul_cancel whole, List.take_length]

/-- Settles O25: padLeft's number of zeros is the residue of every other one; the first `n` slices
of chunk are the first `n * k` bits. -/
theorem padLeftIsMinimalAndChunkIsExact : Obligations.PadLeftIsMinimalAndChunkIsExact :=
  ⟨fun s b pos => ⟨(b - s.length % b) % b, rfl, dvd_padding s.length pos, Nat.mod_lt _ pos,
      fun _ => padding_le pos⟩,
    fun s k _ whole => ⟨chunk_flatten whole, chunk_length s k, fun _ => length_of_mem_chunk⟩⟩

/-! ## toInt and toBits -/

theorem toInt_eq_sum (b : Bits) : toInt b =
    ((List.range b.length).map fun j => (b.getD j false).toNat * 2 ^ (b.length - 1 - j)).sum := by
  induction b with
  | nil => rfl
  | cons c b ih =>
    have weight (j : Nat) : b.length + 1 - 1 - j.succ = b.length - 1 - j := by omega
    rw [toInt_cons, ih, List.length_cons, List.range_succ_eq_map, List.map_cons, List.sum_cons,
      List.map_map]
    simp only [Function.comp_def, List.getD_cons_succ, weight]
    rfl

theorem getElem_lowBits (v w : Nat) {j : Nat} (h : j < (lowBits v w).length) :
    (lowBits v w)[j] = v.testBit (w - 1 - j) := by
  simp [lowBits]

/-- R103 after R102: bit `i` of the value is the `i`-th from the end of the sequence. -/
theorem lowBits_toInt (b : Bits) : lowBits (toInt b) b.length = b := by
  refine List.ext_getElem (lowBits_length _ _) fun j _ lt => ?_
  rw [getElem_lowBits, testBit_toInt,
    List.getD_eq_getElem _ _ (by rw [List.length_reverse]; omega), List.getElem_reverse]
  congr 1
  omega

theorem toInt_lowBits {v w : Nat} (fits : v < 2 ^ w) : toInt (lowBits v w) = v := by
  refine Nat.eq_of_testBit_eq fun i => ?_
  rw [testBit_toInt]
  obtain lt | le := Nat.lt_or_ge i w
  · rw [List.getD_eq_getElem _ _ (by simpa using lt), List.getElem_reverse, getElem_lowBits,
      lowBits_length]
    congr 1
    omega
  · rw [List.getD_eq_default _ _ (by simpa using le),
      Nat.testBit_lt_two_pow (fits.trans_le (Nat.pow_le_pow_right (by decide) le))]

/-- Settles O26: both directions read the value bit by bit, its bit `i` being the `i`-th from the
sequence's end. -/
theorem toBitsInvertsToInt : Obligations.ToBitsInvertsToInt := by
  refine ⟨toInt_eq_sum, fun b _ => ?_, fun v w fits => ?_, toBits_eq_none⟩
  · rw [toBits_eq_some _ _ (toInt_lt b), lowBits_toInt]
  · exact ⟨lowBits v w, toBits_eq_some v w fits, lowBits_length v w, toInt_lowBits fits⟩

/-! ## fold -/

theorem foldLoop_of_le {w s : Nat} (passes : Nat) (low : s ≤ 2 ^ w - 1) :
    foldLoop w passes s = s := by
  cases passes with
  | zero => rfl
  | succ passes => exact if_neg low.not_gt

theorem foldLoop_succ_of_lt {w s : Nat} (passes : Nat) (high : 2 ^ w - 1 < s) :
    foldLoop w (passes + 1) s = foldLoop w passes (foldOnce s w) := if_pos high

theorem foldOnce_lt {s w : Nat} (pos : 1 ≤ w) (high : 2 ^ w - 1 < s) : foldOnce s w < s :=
  foldOnce_le s w (Nat.le_of_pred_lt high) pos

/-- Every pass lowers the sum, so any bound on the passes not below the sum is enough (R104). -/
theorem foldLoop_congr_passes {w s p q : Nat} (pos : 1 ≤ w) (hp : s ≤ p) (hq : s ≤ q) :
    foldLoop w p s = foldLoop w q s := by
  induction p generalizing s q with
  | zero =>
    obtain rfl := Nat.le_zero.mp hp
    rw [foldLoop_of_le q (Nat.zero_le _), foldLoop_of_le 0 (Nat.zero_le _)]
  | succ p ih =>
    obtain high | low := Nat.lt_or_ge (2 ^ w - 1) s
    · have lower := foldOnce_lt pos high
      obtain ⟨q, rfl⟩ : ∃ r, q = r + 1 := ⟨q - 1, by omega⟩
      rw [foldLoop_succ_of_lt p high, foldLoop_succ_of_lt q high]
      exact ih (by omega) (by omega)
    · rw [foldLoop_of_le _ low, foldLoop_of_le _ low]

theorem fold_of_le {s w : Nat} (low : s ≤ 2 ^ w - 1) : fold s w = s := foldLoop_of_le s low

theorem fold_of_lt {s w : Nat} (pos : 1 ≤ w) (high : 2 ^ w - 1 < s) :
    fold s w = fold (foldOnce s w) w := by
  have lower := foldOnce_lt pos high
  calc fold s w = foldLoop w (s + 1) s := foldLoop_congr_passes pos le_rfl (Nat.le_succ s)
    _ = foldLoop w s (foldOnce s w) := foldLoop_succ_of_lt s high
    _ = fold (foldOnce s w) w := foldLoop_congr_passes pos lower.le le_rfl

/-- A pass keeps the residue modulo `2^w - 1`, since `2^w` is congruent to 1 (R105). -/
theorem foldOnce_add (s w : Nat) : foldOnce s w + (2 ^ w - 1) * (s / 2 ^ w) = s := by
  have whole := Nat.div_add_mod s (2 ^ w)
  have quot : s / 2 ^ w ≤ 2 ^ w * (s / 2 ^ w) := Nat.le_mul_of_pos_left _ (Nat.two_pow_pos w)
  rw [foldOnce, Nat.sub_one_mul]
  omega

/-- A pass keeps a positive sum positive (R105). -/
theorem foldOnce_pos {s : Nat} (w : Nat) (pos : 1 ≤ s) : 1 ≤ foldOnce s w := by
  by_contra zero
  obtain ⟨high, low⟩ := Nat.add_eq_zero_iff.mp (Nat.lt_one_iff.mp (Nat.not_le.mp zero))
  have whole := Nat.div_add_mod s (2 ^ w)
  rw [high, low, Nat.mul_zero] at whole
  omega

/-- R105 for every width at once: at `w = 1` the residue modulo 1 is 0. -/
theorem fold_eq_closedForm {s w : Nat} (width : 1 ≤ w) (pos : 1 ≤ s) :
    fold s w = 1 + (s - 1) % (2 ^ w - 1) := by
  induction s using Nat.strong_induction_on with
  | h s ih =>
    obtain high | low := Nat.lt_or_ge (2 ^ w - 1) s
    · have once := foldOnce_pos w pos
      have same : s - 1 = foldOnce s w - 1 + (2 ^ w - 1) * (s / 2 ^ w) := by
        have := foldOnce_add s w
        omega
      rw [fold_of_lt width high, ih _ (foldOnce_lt width high) once, same,
        Nat.add_mul_mod_self_left]
    · rw [fold_of_le low, Nat.mod_eq_of_lt (by omega)]
      omega

theorem fold_le {s w : Nat} (width : 1 ≤ w) : fold s w ≤ 2 ^ w - 1 := by
  obtain rfl | pos := Nat.eq_zero_or_pos s
  · exact Nat.zero_le _
  · have := Nat.mod_lt (s - 1) (Nat.sub_pos_of_lt (Nat.one_lt_two_pow (Nat.ne_of_gt width)))
    rw [fold_eq_closedForm width pos]
    omega

/-- The pass as R104 writes it, by a shift and a mask. -/
theorem shift_add_mask (s w : Nat) : (s >>> w) + (s &&& (2 ^ w - 1)) = foldOnce s w := by
  rw [foldOnce, Nat.shiftRight_eq_div_pow, Nat.and_two_pow_sub_one_eq_mod]

/-- Settles O27: a pass is the shift and the mask, it lowers the sum, and the closed form bounds the
result. -/
theorem foldRunsItsLoopToTheEnd : Obligations.FoldRunsItsLoopToTheEnd := by
  intro s w width
  rw [shift_add_mask]
  refine ⟨?_, foldOnce_lt width, fold_le width⟩
  split
  · next high => exact fold_of_lt width high
  · next low => exact fold_of_le (Nat.le_of_not_lt low)

/-- Settles O28, by strong induction on the sum: a pass keeps it positive and keeps its residue. -/
theorem foldHasItsClosedForm : Obligations.FoldHasItsClosedForm := by
  refine fun w width => ⟨rfl, fun s pos => ⟨fun _ => fold_eq_closedForm width pos, ?_⟩⟩
  rintro rfl
  rw [fold_eq_closedForm width pos, pow_one, Nat.mod_one]

/-! ## flip -/

theorem getElem?_flipBit (s : Bits) (i j : Nat) :
    (flipBit s i)[j]? = if i = j then s[j]?.map not else s[j]? := by
  rw [flipBit, List.getElem?_modify]
  split <;> simp

/-- A series of flips complements a bit exactly when its index occurs an odd number of times. -/
theorem getElem?_foldl_flipBit (picks : List Nat) (s : Bits) (j : Nat) :
    (picks.foldl flipBit s)[j]? =
      s[j]?.map fun b => if picks.count j % 2 = 1 then !b else b := by
  induction picks generalizing s with
  | nil => simp
  | cons i picks ih =>
    rw [List.foldl_cons, ih, getElem?_flipBit, List.count_cons]
    obtain rfl | ne := eq_or_ne i j
    · obtain even | odd := Nat.mod_two_eq_zero_or_one (picks.count i)
      · have flipped : (picks.count i + 1) % 2 = 1 := by omega
        simp [even, flipped, Function.comp_def]
      · have flipped : (picks.count i + 1) % 2 = 0 := by omega
        simp [odd, flipped, Function.comp_def]
    · simp [ne]

theorem flipBit_flipBit (s : Bits) (i : Nat) : flipBit (flipBit s i) i = s := by
  refine List.ext_getElem? fun j => ?_
  simp only [getElem?_flipBit]
  split <;> simp [Function.comp_def]

theorem complement_eq_foldl_flipBit (s : Bits) :
    complement s = (List.range s.length).foldl flipBit s := by
  refine List.ext_getElem? fun j => ?_
  rw [getElem?_foldl_flipBit, complement, List.getElem?_map]
  obtain lt | le := Nat.lt_or_ge j s.length
  · rw [List.count_eq_one_of_mem List.nodup_range (List.mem_range.mpr lt)]
    simp
  · simp [le]

/-- Settles O29: the complement flips at a range of indices, in which each occurs once. -/
theorem flipComplementsOneBit : Obligations.FlipComplementsOneBit := fun s i _ =>
  ⟨flipBit_length s i, by rw [getElem?_flipBit, if_pos rfl],
    fun j ne => by rw [getElem?_flipBit, if_neg ne.symm], flipBit_flipBit s i,
    complement_eq_foldl_flipBit s⟩

end Sys2Proof.Machine
end

section
/-! The buffer commands, as 40_bitvector_buffer.md lays them down (R110 to R113), and LOAD of a
string longer than MAXLEN. -/

namespace Sys2Proof.Machine

/-! ## NOP, CLR, MOV and PUSH -/

/-- Settles O20: each meaning is one write of IBUF, or none. -/
theorem nopClrMovHaveTheirEffect : Obligations.NopClrMovHaveTheirEffect :=
  fun _ => ⟨rfl, rfl, rfl⟩

theorem exec_push_of_too_long {b : Bits} {s : State}
    (long : s.maxLen < s.ibuf.length + b.length) :
    exec (.push b) s = .next (recordFault .cap s) := if_pos long

/-- Settles O21: the two outcomes of PUSH, at and above MAXLEN. -/
theorem pushAppendsOrRaisesCap : Obligations.PushAppendsOrRaisesCap := by
  refine fun b s => ⟨exec_push_of_fits, fun long err => ?_⟩
  rw [exec_push_of_too_long long, recordFault_of_none s .cap err]

/-! ## LOAD of a string longer than MAXLEN -/

theorem issueAll_append {first rest : List Instr} {s t : State}
    (run : issueAll first s = .next t) : issueAll (first ++ rest) s = issueAll rest t := by
  induction first generalizing s with
  | nil => cases run; rfl
  | cons i first ih =>
    simp only [List.cons_append, issueAll] at run ⊢
    split at run
    · cases run
    · split at run
      · exact ih run
      · cases run
      · cases run

/-- In the FAULT state a script is consumed and ignored (R211). -/
theorem issueAll_of_fault {s : State} {f : CoreFault} (err : s.err = some f) (inj : s.inj = none)
    (script : List Instr) : issueAll script s = .next s := by
  induction script with
  | nil => rfl
  | cons i rest ih => simp only [issueAll, inj, acceptCommand_faulted s _ f err, ih]

theorem flatten_take_loadPieces (b : Bits) {n : Nat} (inside : 64 * n ≤ b.length) :
    ((loadPieces b).take n).flatten = b.take (64 * n) := by
  rw [loadPieces, ← List.map_take, List.take_range, Nat.min_eq_left (by omega),
    flatten_map_slice]

/-- The fields no script of CLR and PUSH that fits writes, one by one. -/
theorem SameButIbuf.fields {s t : State} (same : SameButIbuf s t) :
    t.obuf = s.obuf ∧ t.valid = s.valid ∧ t.err = s.err ∧ t.inj = s.inj ∧ t.maxLen = s.maxLen ∧
      t.host = s.host ∧ t.answers = s.answers ∧ t.draws = s.draws ∧ t.reply = s.reply := by
  simp only [SameButIbuf, State.mk.injEq] at same
  tauto

/-- The pieces before the one that does not fit are in IBUF, that one raises CAP, and the rest is
ignored (R112, R211). -/
theorem issueAll_pushes_until_cap {before after : List Bits} {piece : Bits} {s : State}
    (ready : Ready s) (short : ∀ p ∈ before ++ piece :: after, p.length ≤ Config.literalMax)
    (fits : s.ibuf.length + before.flatten.length ≤ s.maxLen)
    (long : s.maxLen < s.ibuf.length + before.flatten.length + piece.length) :
    ∃ u, issueAll ((before ++ piece :: after).map .push) s =
        .next (settle (recordFault .cap u)) ∧
      u.ibuf = s.ibuf ++ before.flatten ∧ SameButIbuf s u := by
  obtain ⟨u, issued, ibuf, same⟩ := issueAll_pushes ready
    (fun p mem => short p (List.mem_append_left _ mem)) fits
  obtain ⟨-, -, err, inj, maxLen, -⟩ := same.fields
  have accepts : Ready u := ⟨err.trans ready.1, inj.trans ready.2⟩
  have wf : (Instr.push piece).wellFormed = true := decide_eq_true (short piece (by simp))
  have cap := exec_push_of_too_long (b := piece) (s := u) (by simpa [maxLen, ibuf] using long)
  refine ⟨u, ?_, ibuf, same⟩
  rw [List.map_append, List.map_cons, issueAll_append issued, issueAll_cons wf accepts cap]
  have recorded : (recordFault .cap u).err = some .cap := by
    rw [recordFault_of_none u .cap accepts.1]
  exact issueAll_of_fault (s := settle _) recorded ((recordFault_inj u .cap).trans accepts.2) _

/-- `floor(MAXLEN / 64)` pieces fit, each of 64 bits; the next one, whole or the last, does not. -/
theorem issueAll_load_of_too_long {b : Bits} {s : State} (ready : Ready s)
    (long : s.maxLen < b.length) :
    ∃ u, issueAll (load b) s = .next (settle (recordFault .cap u)) ∧
      u.ibuf = b.take (64 * (s.maxLen / 64)) ∧ SameButIbuf s u := by
  have fits : 64 * (s.maxLen / 64) ≤ s.maxLen := Nat.mul_div_le s.maxLen 64
  have before := flatten_take_loadPieces b (fits.trans long.le)
  have lt : s.maxLen / 64 < (loadPieces b).length := by rw [loadPieces_length]; omega
  have piece := length_of_loadPieces_getElem? (List.getElem?_eq_getElem lt)
  have cut := List.take_append_drop (s.maxLen / 64) (loadPieces b)
  rw [List.drop_eq_getElem_cons lt] at cut
  obtain ⟨u, issued, ibuf, same⟩ := issueAll_pushes_until_cap (s := settle (setIbuf [] s)) ready
    (fun _ mem => length_of_mem_loadPieces (cut ▸ mem))
    (by simp [before]; omega) (by simp [before, piece]; omega)
  refine ⟨u, ?_, by rw [ibuf, before]; rfl, same⟩
  rw [load, issueAll_cons rfl ready rfl, ← cut, issued]

/-- Settles O23: the first piece that does not fit raises CAP; the FAULT state ignores the rest. -/
theorem loadOfTooLongAStringRaisesCap : Obligations.LoadOfTooLongAStringRaisesCap := by
  intro b s ready long
  obtain ⟨u, issued, ibuf, same⟩ := issueAll_load_of_too_long ready long
  obtain ⟨obuf, valid, err, inj, maxLen, host, answers, draws, reply⟩ := same.fields
  rw [recordFault_of_none u .cap (err.trans ready.1)] at issued
  exact ⟨_, issued, rfl, ibuf, obuf, valid, inj.trans ready.2, maxLen, answers, draws, host, reply⟩

end Sys2Proof.Machine
end

section
/-! checksum_accumulator, as 41_checksum.md lays it down (R121 to R129): its groups read word by
word, CKS.GEN and CKS.VFY, why a generated codeword verifies, and the serial sequence in ACC. -/

namespace Sys2Proof.Machine

/-! ## Groups -/

/-- padLeft fills up to the next whole number of blocks, and to no more (R100). -/
theorem padding_add_length (n : Nat) {size : Nat} (pos : 1 ≤ size) :
    (size - n % size) % size + n = size * blocks n size := by
  obtain ⟨m, whole⟩ := dvd_padding n pos
  have short := Nat.mod_lt (size - n % size) pos
  have count : m = blocks n size := by
    refine (Nat.div_eq_of_lt_le ?_ ?_).symm
    · rw [Nat.mul_comm]; omega
    · rw [Nat.mul_comm, Nat.mul_succ]; omega
  rw [whole, count]

/-- The slices of the padded input are its blocks (R100, R101). -/
theorem chunk_padLeft (s : Bits) {size : Nat} (pos : 1 ≤ size) :
    chunk (padLeft s size) size = (List.range (blocks s.length size)).map (block s size) := by
  have total := padding_add_length s.length pos
  have padded : padLeft s size = zeros (size * blocks s.length size - s.length) ++ s := by
    rw [padLeft, ← total, Nat.add_sub_cancel]
  rw [chunk, padLeft_length, total, Nat.mul_div_cancel_left _ pos, padded]
  refine List.map_congr_left fun i _ => ?_
  rw [block, Nat.mul_comm i, Nat.mul_comm (i + 1), Nat.mul_succ]

theorem chunk_append_of_length {a : Bits} {k : Nat} (pos : 1 ≤ k) (len : a.length = k) (b : Bits) :
    chunk (a ++ b) k = a :: chunk b k := by
  have count : (a ++ b).length / k = b.length / k + 1 := by
    rw [List.length_append, len, Nat.add_div_left _ pos]
  have past (i : Nat) : slice (a ++ b) ((i + 1) * k) ((i + 1 + 1) * k) =
      slice b (i * k) ((i + 1) * k) := by
    simp only [slice, Nat.succ_mul, Nat.add_sub_cancel_left]
    rw [Nat.add_comm, ← List.drop_drop, List.drop_left' len]
  rw [chunk, count, List.range_succ_eq_map, List.map_cons, List.map_map]
  congr 1
  · simp [slice, ← len]
  · exact List.map_congr_left fun i _ => past i

/-- chunk takes apart what consists of whole slices already. -/
theorem chunk_flatten_append {groups : List Bits} {k : Nat} (pos : 1 ≤ k)
    (len : ∀ c ∈ groups, c.length = k) (b : Bits) :
    chunk (groups.flatten ++ b) k = groups ++ chunk b k := by
  induction groups with
  | nil => rfl
  | cons c groups ih =>
    rw [List.flatten_cons, List.append_assoc,
      chunk_append_of_length pos (len c List.mem_cons_self),
      ih fun d mem => len d (List.mem_cons_of_mem c mem), List.cons_append]

theorem chunk_append {a : Bits} {k : Nat} (pos : 1 ≤ k) (whole : k ∣ a.length) (b : Bits) :
    chunk (a ++ b) k = chunk a k ++ chunk b k := by
  conv_lhs => rw [← chunk_flatten whole]
  exact chunk_flatten_append pos (fun _ => length_of_mem_chunk) b

/-- Input that consists of whole words is not padded (R100). -/
theorem chunk_padLeft_flatten {groups : List Bits} {k : Nat} (pos : 1 ≤ k)
    (len : ∀ c ∈ groups, c.length = k) : chunk (padLeft groups.flatten k) k = groups := by
  have length : groups.flatten.length = groups.length * k := by
    rw [List.length_flatten, List.map_congr_left len, List.map_const', List.sum_replicate,
      smul_eq_mul]
  have unpadded : padLeft groups.flatten k = groups.flatten ++ [] := by
    simp [padLeft, length, zeros]
  rw [unpadded, chunk_flatten_append pos len]
  simp [chunk]

/-! ## The sum of a group and its fold -/

theorem toInt_slice_word {c : Bits} {k : Nat} (inside : 4 * k + 4 ≤ c.length) :
    toInt (slice c (k * 4) ((k + 1) * 4)) = wordValue c k := by
  have length : (slice c (k * 4) ((k + 1) * 4)).length = 4 := by rw [slice_length]; omega
  have bit (j : Nat) (lt : j < 4) :
      (slice c (k * 4) ((k + 1) * 4)).getD j false = c.getD (4 * k + j) false := by
    rw [List.getD_eq_getElem?_getD, slice, List.getElem?_take_of_lt (by omega),
      List.getElem?_drop, Nat.mul_comm k, List.getD_eq_getElem?_getD]
  rw [toInt_eq_sum, length]
  simp only [List.range_succ, List.range_zero, List.nil_append, List.cons_append, List.map_cons,
    List.map_nil, List.sum_cons, List.sum_nil, wordValue]
  rw [bit 0 (by decide), bit 1 (by decide), bit 2 (by decide), bit 3 (by decide), Nat.add_zero]
  omega

/-- The sum of R121 and R122 written out: word `k` is `wordValue c k`. -/
theorem wordSum_eq_sum_wordValue {c : Bits} {n : Nat} (len : c.length = 4 * n) :
    wordSum c = ((List.range n).map (wordValue c)).sum := by
  rw [wordSum, chunk, List.map_map, len, Nat.mul_div_cancel_left n (by decide)]
  refine congrArg List.sum (List.map_congr_left fun k mem => toInt_slice_word ?_)
  have := List.mem_range.mp mem
  omega

theorem toInt_le_of_mem_chunk {group w : Bits} (mem : w ∈ chunk group Config.wordSize) :
    toInt w ≤ 15 := by
  refine Nat.le_of_lt_succ ?_
  calc toInt w < 2 ^ w.length := toInt_lt w
    _ = 16 := by rw [length_of_mem_chunk mem]; rfl

/-- R125: a word adds at most 15. -/
theorem wordSum_le (group : Bits) : wordSum group ≤ 15 * (group.length / 4) := by
  have bound := List.sum_le_card_nsmul ((chunk group Config.wordSize).map toInt) 15
    (List.forall_mem_map.mpr fun _ => toInt_le_of_mem_chunk)
  rw [List.length_map, chunk_length, smul_eq_mul, Nat.mul_comm] at bound
  exact bound

theorem wordSum_append {a : Bits} (whole : 4 ∣ a.length) (b : Bits) :
    wordSum (a ++ b) = wordSum a + wordSum b := by
  rw [wordSum, chunk_append (by decide) whole, List.map_append, List.sum_append]
  rfl

theorem wordSum_word {w : Bits} (len : w.length = 4) : wordSum w = toInt w := by
  have one := chunk_append_of_length (by decide) len []
  rw [List.append_nil] at one
  rw [wordSum, one]
  simp [chunk]

/-- R105 at the checksum's word size. -/
theorem fold_wordSize (sum : Nat) : fold sum Config.wordSize = carryFold sum := by
  unfold carryFold
  split
  · next zero => rw [zero]; rfl
  · next nonzero => exact fold_eq_closedForm (by decide) (Nat.one_le_iff_ne_zero.mpr nonzero)

/-- What determines the carry: it takes off a multiple of 15 and leaves at most 15, and it leaves 0
only of the sum 0 (R105). -/
theorem carryFold_spec (sum : Nat) :
    ∃ q, sum = carryFold sum + 15 * q ∧ carryFold sum ≤ 15 ∧ (carryFold sum = 0 → sum = 0) := by
  unfold carryFold
  split
  · exact ⟨0, by omega⟩
  · exact ⟨(sum - 1) / 15, by omega⟩

/-- Folding a part of the sum early changes nothing (R129). -/
theorem carryFold_carryFold_add (x y : Nat) : carryFold (carryFold x + y) = carryFold (x + y) := by
  obtain ⟨_, early, _, _⟩ := carryFold_spec x
  obtain ⟨_, left, _, _⟩ := carryFold_spec (carryFold x + y)
  obtain ⟨_, right, _, _⟩ := carryFold_spec (x + y)
  omega

/-- The complement fills a sum up to a positive multiple of 15 (R127). -/
theorem carryFold_add_complement (sum : Nat) : carryFold (sum + (15 - carryFold sum)) = 15 := by
  obtain ⟨_, folded, _, _⟩ := carryFold_spec sum
  obtain ⟨_, filled, _, _⟩ := carryFold_spec (sum + (15 - carryFold sum))
  omega

theorem foldedSum_eq_carryFold (group : Bits) : foldedSum group = carryFold (wordSum group) :=
  fold_wordSize _

theorem foldedSum_le (group : Bits) : foldedSum group ≤ 15 :=
  fold_le (by decide)

/-- The four words of CKS.GEN's chunk (R121). -/
theorem foldedSum_of_length_sixteen {c : Bits} (len : c.length = 16) : foldedSum c =
    carryFold (wordValue c 0 + wordValue c 1 + wordValue c 2 + wordValue c 3) := by
  rw [foldedSum_eq_carryFold, wordSum_eq_sum_wordValue (n := 4) len]
  simp [List.range_succ, Nat.add_assoc]

/-- The five sub-words of CKS.VFY's word (R122). -/
theorem foldedSum_of_length_twenty {x : Bits} (len : x.length = 20) : foldedSum x =
    carryFold (wordValue x 0 + wordValue x 1 + wordValue x 2 + wordValue x 3 + wordValue x 4) := by
  rw [foldedSum_eq_carryFold, wordSum_eq_sum_wordValue (n := 5) len]
  simp [List.range_succ, Nat.add_assoc]

/-! ## CKS.GEN -/

/-- The complement of a field is the field of the complementary value (R121). -/
theorem complement_lowBits {v w : Nat} (fits : v < 2 ^ w) :
    complement (lowBits v w) = lowBits (2 ^ w - 1 - v) w := by
  rw [complement, lowBits, List.map_map, lowBits]
  refine List.map_congr_left fun j mem => ?_
  have lt := List.mem_range.mp mem
  rw [Nat.sub_sub, Nat.add_comm 1, Nat.testBit_two_pow_sub_succ fits]
  simp [show w - 1 - j < w by omega]

/-- A chunk of a codeword with its field, the field's value in closed form (R121). -/
def fieldAppended (c : Bits) : Bits := c ++ lowBits (15 - foldedSum c) 4

@[simp] theorem fieldAppended_length (c : Bits) : (fieldAppended c).length = c.length + 4 := by
  simp [fieldAppended]

/-- The folded sum fits the field, so `toBits` does not fail (R201). -/
theorem chunkWithField_eq_some (c : Bits) : chunkWithField c = some (fieldAppended c) := by
  have fits : foldedSum c < 2 ^ 4 := Nat.lt_succ_of_le (foldedSum_le c)
  rw [chunkWithField, toBits_eq_some _ _ fits, Option.map_some, complement_lowBits fits]
  rfl

theorem checksumCodeword_eq_some (payload : Bits) :
    checksumCodeword payload = some ((generateChunks payload).map fieldAppended).flatten := by
  have each : (generateChunks payload).mapM chunkWithField =
      some ((generateChunks payload).map fieldAppended) := by
    rw [funext chunkWithField_eq_some]
    exact List.mapM_pure
  rw [checksumCodeword, each, Option.map_some]

theorem codewordLength_eq (payload : Bits) :
    codewordLength payload = 20 * blocks payload.length 16 := by
  rw [codewordLength, padLeft_length, padding_add_length _ (by decide),
    Nat.mul_div_cancel_left _ (by decide), Nat.mul_comm _ Config.wordSize, ← Nat.add_mul]
  rfl

/-- CKS.GEN whose result fits completes: `toBits` cannot fail (R121, R201). -/
theorem exec_cksGen_of_fits {s : State} (fits : 20 * blocks s.ibuf.length 16 ≤ s.maxLen) :
    ∃ out a, checksumCodeword s.ibuf = some out ∧
      exec .cksGen s = .next (setAcc a (setObuf out s)) := by
  have codeword := checksumCodeword_eq_some s.ibuf
  rw [← codewordLength_eq] at fits
  refine ⟨_, accAfter (generateChunks s.ibuf) s.acc, codeword, ?_⟩
  rw [exec, execCksGen, if_neg (not_lt.mpr fits), codeword]

theorem block_length {s : Bits} {size i : Nat} (pos : 1 ≤ size) (lt : i < blocks s.length size) :
    (block s size i).length = size := by
  refine length_of_mem_chunk (s := padLeft s size) ?_
  rw [chunk_padLeft s pos]
  exact List.mem_map_of_mem (List.mem_range.mpr lt)

/-- R121's codeword, block by block with the sums written out. -/
theorem eq_flatMap_of_checksumCodeword {payload out : Bits}
    (h : checksumCodeword payload = some out) :
    out = (List.range (blocks payload.length 16)).flatMap fun i =>
      let c := block payload 16 i
      c ++ lowBits (15 - carryFold (wordValue c 0 + wordValue c 1 + wordValue c 2 +
        wordValue c 3)) 4 := by
  rw [checksumCodeword_eq_some, generateChunks, chunk_padLeft _ (by decide), List.map_map,
    ← List.flatMap_def] at h
  rw [← Option.some.inj h]
  refine List.flatMap_congr fun i mem => ?_
  have len : (block payload 16 i).length = 16 := block_length (by decide) (List.mem_range.mp mem)
  rw [Function.comp_apply, fieldAppended, foldedSum_of_length_sixteen len]

/-- Settles O30: the chunks are the padded input's blocks; each one's sum has four words. -/
theorem cksGenAppendsEachField : Obligations.CksGenAppendsEachField := by
  intro s fits
  obtain ⟨out, a, codeword, generated⟩ := exec_cksGen_of_fits fits
  refine ⟨a, ?_⟩
  rw [generated, eq_flatMap_of_checksumCodeword codeword]
  rfl

/-- Settles O31: a completed CKS.GEN wrote a codeword, and a raised fault would be recorded. -/
theorem cksGenLengthLaw : Obligations.CksGenLengthLaw := by
  intro s t _ run err
  obtain ⟨f, rfl⟩ | completes := exec_next_cases run
  · exact absurd err (recordFault_err_ne s f)
  · cases completes with
    | cksGen out fits codeword =>
      calc out.length = 20 * blocks s.ibuf.length 16 := by
            rw [length_of_checksumCodeword codeword, codewordLength_eq]
        _ = _ := Nat.add_mul 16 4 _

/-! ## CKS.VFY -/

/-- R122's verdict, block by block with the sums written out. -/
theorem checksumValid_eq_all (codeword : Bits) :
    checksumValid codeword = (List.range (blocks codeword.length 20)).all fun i =>
      let x := block codeword 20 i
      carryFold (wordValue x 0 + wordValue x 1 + wordValue x 2 + wordValue x 3 +
        wordValue x 4) == 15 := by
  rw [checksumValid, verifyWords, chunk_padLeft _ (by decide), List.all_map, Bool.eq_iff_iff,
    List.all_eq_true, List.all_eq_true]
  refine forall₂_congr fun i mem => ?_
  have len : (block codeword Config.cwordSize i).length = 20 :=
    block_length (by decide) (List.mem_range.mp mem)
  rw [Function.comp_apply, foldedSum_of_length_twenty len]
  rfl

/-- Settles O32: the words are the padded input's blocks; each one's sum has five sub-words. -/
theorem cksVfyJudgesEveryWord : Obligations.CksVfyJudgesEveryWord := by
  refine fun s => ⟨accAfter (verifyWords s.ibuf) s.acc, ?_⟩
  rw [exec, execCksVfy, checksumValid_eq_all]
  rfl

/-! ## The round trip -/

theorem foldedSum_fieldAppended {c : Bits} (len : c.length = 16) :
    foldedSum (fieldAppended c) = Config.allOnes := by
  have whole : 4 ∣ c.length := by rw [len]; decide
  have fits : 15 - foldedSum c < 2 ^ 4 := Nat.lt_succ_of_le (Nat.sub_le _ _)
  rw [foldedSum_eq_carryFold, fieldAppended, wordSum_append whole,
    wordSum_word (lowBits_length _ _), toInt_lowBits fits, foldedSum_eq_carryFold]
  exact carryFold_add_complement _

/-- The words of CKS.VFY are the chunks with their fields: a codeword is not padded (R127). -/
theorem checksumValid_of_checksumCodeword {payload out : Bits}
    (h : checksumCodeword payload = some out) : checksumValid out = true := by
  rw [checksumCodeword_eq_some] at h
  obtain rfl := Option.some.inj h
  have len (c : Bits) (mem : c ∈ generateChunks payload) : c.length = 16 := length_of_mem_chunk mem
  rw [checksumValid, verifyWords, chunk_padLeft_flatten (by decide), List.all_map,
    List.all_eq_true]
  · exact fun c mem => beq_of_eq (foldedSum_fieldAppended (len c mem))
  · exact List.forall_mem_map.mpr fun c mem => by rw [fieldAppended_length, len c mem]

/-- CKS.VFY after MOV judges what was in OBUF (R113, R122). -/
theorem issueAll_mov_cksVfy {s : State} (ready : Ready s) :
    ∃ t, issueAll [.mov, .cksVfy] s = .next t ∧ t.valid = checksumValid s.obuf ∧ Ready t ∧
      t.ibuf = s.obuf := by
  have moved : exec .mov s = .next (setIbuf s.obuf s) := rfl
  have accepts : Ready (settle (setIbuf s.obuf s)) := ready
  exact ⟨_, (issueAll_cons rfl ready moved).trans (issueAll_cons rfl accepts rfl), rfl, ready, rfl⟩

/-- Settles O33: CKS.VFY reads the codeword CKS.GEN wrote, and a codeword verifies. -/
theorem checksumRoundTripVerifies : Obligations.ChecksumRoundTripVerifies := by
  intro s ready fits
  obtain ⟨out, a, codeword, generated⟩ := exec_cksGen_of_fits fits
  obtain ⟨t, issued, valid, accepts, ibuf⟩ :=
    issueAll_mov_cksVfy (s := settle (setAcc a (setObuf out s))) ready
  refine ⟨t, (issueAll_cons rfl ready generated).trans issued, ?_, accepts, ?_⟩
  · exact valid.trans (checksumValid_of_checksumCodeword codeword)
  · rw [ibuf, ← codewordLength_eq]
    exact length_of_checksumCodeword codeword

/-! ## ACC -/

/-- One addition of R129's serial sequence. -/
def accAdd (a : BitVec 8) (w : Bits) : BitVec 8 := a + BitVec.ofNat 8 (toInt w)

/-- One fold of R129's serial sequence. -/
def accFold (a : BitVec 8) : BitVec 8 := BitVec.ofNat 8 (fold a.toNat Config.wordSize)

theorem accAfterGroup_eq (group : Bits) :
    accAfterGroup group = accFold ((chunk group Config.wordSize).foldl accAdd 0) := rfl

theorem accFoldedEachWord_eq (group : Bits) : accFoldedEachWord group =
    (chunk group Config.wordSize).foldl (fun a w => accFold (accAdd a w)) 0 := rfl

theorem toNat_accAdd {a : BitVec 8} {w : Bits} (low : a.toNat + toInt w < 2 ^ 8) :
    (accAdd a w).toNat = a.toNat + toInt w := by
  rw [accAdd, BitVec.toNat_add, BitVec.toNat_ofNat, Nat.add_mod_mod, Nat.mod_eq_of_lt low]

theorem toNat_accFold (a : BitVec 8) : (accFold a).toNat = carryFold a.toNat := by
  obtain ⟨_, _, low, _⟩ := carryFold_spec a.toNat
  rw [accFold, fold_wordSize, BitVec.toNat_ofNat, Nat.mod_eq_of_lt (by omega)]

/-- The additions do not wrap while the sum stays below 256 (R125). -/
theorem toNat_foldl_accAdd {words : List Bits} {a : BitVec 8}
    (low : a.toNat + (words.map toInt).sum < 2 ^ 8) :
    (words.foldl accAdd a).toNat = a.toNat + (words.map toInt).sum := by
  induction words generalizing a with
  | nil => rfl
  | cons w words ih =>
    rw [List.map_cons, List.sum_cons, ← Nat.add_assoc] at low ⊢
    have first := toNat_accAdd (Nat.lt_of_le_of_lt (Nat.le_add_right _ _) low)
    rw [List.foldl_cons, ih (first ▸ low), first]

/-- Folded after every addition, ACC holds at each point the folded sum of the words so far (R129). -/
theorem toNat_foldl_accFold_accAdd {words : List Bits} {a : BitVec 8} {sum : Nat}
    (words_le : ∀ w ∈ words, toInt w ≤ 15) (folded : a.toNat = carryFold sum) :
    (words.foldl (fun a w => accFold (accAdd a w)) a).toNat =
      carryFold (sum + (words.map toInt).sum) := by
  induction words generalizing a sum with
  | nil => exact folded
  | cons w words ih =>
    obtain ⟨_, _, low, _⟩ := carryFold_spec sum
    have word := words_le w List.mem_cons_self
    rw [List.foldl_cons, List.map_cons, List.sum_cons, ← Nat.add_assoc]
    refine ih (fun v mem => words_le v (List.mem_cons_of_mem w mem)) ?_
    rw [toNat_accFold, toNat_accAdd (by omega), folded, carryFold_carryFold_add]

theorem toNat_accAfterGroup {group : Bits} (low : wordSum group < 2 ^ 8) :
    (accAfterGroup group).toNat = foldedSum group := by
  have sum := toNat_foldl_accAdd (words := chunk group Config.wordSize) (a := 0)
    ((Nat.zero_add _).symm ▸ low)
  rw [accAfterGroup_eq, toNat_accFold, sum, foldedSum_eq_carryFold]
  exact congrArg carryFold (Nat.zero_add _)

theorem toNat_accFoldedEachWord (group : Bits) :
    (accFoldedEachWord group).toNat = foldedSum group := by
  rw [accFoldedEachWord_eq, toNat_foldl_accFold_accAdd (sum := 0)
    (fun _ => toInt_le_of_mem_chunk) rfl, Nat.zero_add, foldedSum_eq_carryFold, wordSum]

/-- Settles O34: a word is at most 15, so the 8-bit additions are exact, and folding early keeps
the folded sum. -/
theorem accumulatorHoldsTheFoldedSum : Obligations.AccumulatorHoldsTheFoldedSum := by
  intro group
  have bound := wordSum_le group
  refine ⟨fun len => by rwa [len] at bound, fun len => by rwa [len] at bound, fun len => ?_⟩
  have holds := toNat_accAfterGroup (group := group) (by omega)
  exact ⟨holds, foldedSum_le group,
    BitVec.eq_of_toNat_eq ((toNat_accFoldedEachWord group).trans holds.symm)⟩

end Sys2Proof.Machine
end

section
/-! The division of crc_lfsr_engine, as 42_crc.md lays it down (R143, R144, R151): its register, its
step count, and the polynomials over GF(2) that bit sequences stand for. -/

namespace Sys2Proof.Machine

open Polynomial

/-! ## The sliding register -/

/-- One pass of R143's loop but the last: reduce, drop the leading bit, append a dividend bit. -/
def slide (g r : Bits) (b : Bool) : Bits := (reduce r g).drop 1 ++ [b]

/-- R143's register after the last conditional exclusive-or and before the last drop. -/
def lastRegister (d g : Bits) : Bits :=
  reduce ((d.drop g.length).foldl (slide g) (d.take g.length)) g

theorem divideLoop_eq (g r d : Bits) :
    divideLoop g r d = ((reduce (d.foldl (slide g) r) g).drop 1, d.length + 1) := by
  induction d generalizing r with
  | nil => rfl
  | cons b rest ih => rw [divideLoop, ih]; rfl

theorem xorDivide_eq (d g : Bits) : xorDivide d g = (lastRegister d g).drop 1 := by
  rw [xorDivide, divideLoop_eq, lastRegister]

/-- Settles O36: one pass per dividend bit after the first `n`, and the final one. -/
theorem divisionStepCount : Obligations.DivisionStepCount := by
  have count (d g : Bits) : divisionSteps d g = d.length - g.length + 1 := by
    rw [divisionSteps, divideLoop_eq, List.length_drop]
  refine ⟨fun d g _ _ => count d g, fun data g divisor nonempty => ?_⟩
  have posDivisor := List.length_pos_iff.mpr divisor
  have posData := List.length_pos_iff.mpr nonempty
  rw [count, List.length_append, List.length_replicate]
  omega

theorem ne_nil_of_head? {g : Bits} (lead : g.head? = some true) : g ≠ [] :=
  ne_nil_of_validPattern (beq_of_eq lead)

theorem length_pos_of_head? {g : Bits} (lead : g.head? = some true) : 1 ≤ g.length :=
  List.length_pos_iff.mpr (ne_nil_of_head? lead)

section
variable {g : Bits} (lead : g.head? = some true)
include lead

/-- The bit each step drops is 0 (R143). -/
theorem reduce_eq_cons {r : Bits} (len : r.length = g.length) :
    reduce r g = false :: (reduce r g).drop 1 := by
  obtain ⟨gs, rfl⟩ := List.head?_eq_some_iff.mp lead
  cases r with
  | nil => cases len
  | cons b rs => cases b <;> rfl

theorem xorDivide_length_of_head? {d : Bits} (long : g.length ≤ d.length) :
    (xorDivide d g).length = g.length - 1 := xorDivide_length (ne_nil_of_head? lead) long

theorem slide_length {r : Bits} (len : r.length = g.length) (b : Bool) :
    (slide g r b).length = g.length := by
  have pos := length_pos_of_head? lead
  rw [slide, List.length_append, List.length_drop, reduce_length len, List.length_singleton]
  omega

theorem foldl_slide_length (d : Bits) {r : Bits} (len : r.length = g.length) :
    (d.foldl (slide g) r).length = g.length :=
  List.foldlRecOn (motive := fun r => r.length = g.length) d (slide g) len
    fun _ len b _ => slide_length lead len b

theorem lastRegister_eq_cons {d : Bits} (long : g.length ≤ d.length) :
    lastRegister d g = false :: xorDivide d g := by
  rw [xorDivide_eq]
  exact reduce_eq_cons lead (foldl_slide_length lead _ (List.length_take_of_le long))

end

/-! ## Bit sequences as polynomials over GF(2) -/

/-- The polynomial a bit sequence stands for, its last bit the constant term (R151). -/
noncomputable def polyOf (b : Bits) : (ZMod 2)[X] :=
  b.foldl (fun acc bit => acc * X + (if bit then 1 else 0)) 0

theorem polyOf_concat (b : Bits) (c : Bool) :
    polyOf (b ++ [c]) = polyOf b * X + (if c then 1 else 0) := by
  simp [polyOf]

theorem polyOf_append (a b : Bits) : polyOf (a ++ b) = polyOf a * X ^ b.length + polyOf b := by
  induction b using List.reverseRecOn with
  | nil => simp [polyOf]
  | append_singleton b c ih =>
    rw [← List.append_assoc, polyOf_concat, ih, polyOf_concat, List.length_append,
      List.length_singleton]
    ring

theorem polyOf_cons (c : Bool) (b : Bits) :
    polyOf (c :: b) = (if c then X ^ b.length else 0) + polyOf b := by
  rw [← List.singleton_append, polyOf_append]
  cases c <;> simp [polyOf]

/-- A leading zero does not change the polynomial. -/
theorem polyOf_false_cons (b : Bits) : polyOf (false :: b) = polyOf b := by
  simp [polyOf_cons]

theorem degree_polyOf_lt (b : Bits) : (polyOf b).degree < b.length := by
  induction b with
  | nil => simp [polyOf]
  | cons c b ih =>
    have grows : (b.length : WithBot Nat) < (c :: b).length := by
      exact_mod_cast Nat.lt_succ_self b.length
    rw [polyOf_cons]
    refine (degree_add_le _ _).trans_lt (max_lt ?_ (ih.trans grows))
    cases c
    · exact WithBot.bot_lt_coe _
    · simpa using grows

theorem monic_polyOf_cons (b : Bits) : (polyOf (true :: b)).Monic := by
  rw [polyOf_cons]
  exact monic_X_pow_add (degree_polyOf_lt b)

theorem polyOf_eq_zero_iff (b : Bits) : polyOf b = 0 ↔ b.count true = 0 := by
  induction b with
  | nil => simp [polyOf]
  | cons c b ih =>
    cases c
    · simpa [polyOf_false_cons] using ih
    · simpa using (monic_polyOf_cons b).ne_zero

theorem polyOf_zeros (k : Nat) : polyOf (zeros k) = 0 := by
  rw [polyOf_eq_zero_iff, zeros, List.count_replicate]
  rfl

theorem polyOf_xorBits {a b : Bits} (len : a.length = b.length) :
    polyOf (xorBits a b) = polyOf a + polyOf b := by
  induction a generalizing b with
  | nil => simp [polyOf, xorBits, List.eq_nil_of_length_eq_zero len.symm]
  | cons c a ih =>
    cases b with
    | nil => cases len
    | cons e b =>
      have tails : a.length = b.length := Nat.succ.inj len
      have bits (p : (ZMod 2)[X]) : (if (c ^^ e) = true then p else 0) =
          (if c = true then p else 0) + (if e = true then p else 0) := by
        cases c <;> cases e <;> simp [CharTwo.add_self_eq_zero]
      have cons : xorBits (c :: a) (e :: b) = (c ^^ e) :: xorBits a b := rfl
      rw [cons, polyOf_cons, polyOf_cons, polyOf_cons, ih tails, xorBits_length, tails, min_self,
        bits, add_add_add_comm]

theorem eq_of_differences_eq_zero {a b : Bits} (len : a.length = b.length)
    (same : differences a b = 0) : a = b := by
  induction a generalizing b with
  | nil => exact (List.eq_nil_of_length_eq_zero len.symm).symm
  | cons c a ih =>
    cases b with
    | nil => cases len
    | cons e b =>
      obtain ⟨head, tail⟩ : (c ^^ e) = false ∧ differences a b = 0 := by
        simpa [differences, xorBits, List.count_cons, and_comm] using same
      rw [ih (Nat.succ.inj len) tail, bne_eq_false_iff_eq.mp head]

theorem polyOf_injective {a b : Bits} (len : a.length = b.length) (same : polyOf a = polyOf b) :
    a = b := by
  refine eq_of_differences_eq_zero len ((polyOf_eq_zero_iff _).mp ?_)
  rw [polyOf_xorBits len, same, CharTwo.add_self_eq_zero]

section
variable {g : Bits} (lead : g.head? = some true)
include lead

theorem monic_polyOf : (polyOf g).Monic := by
  obtain ⟨gs, rfl⟩ := List.head?_eq_some_iff.mp lead
  exact monic_polyOf_cons gs

theorem degree_polyOf : (polyOf g).degree = (g.length - 1 : Nat) := by
  obtain ⟨gs, rfl⟩ := List.head?_eq_some_iff.mp lead
  rw [polyOf_cons, if_pos rfl, degree_add_eq_left_of_degree_lt] <;> rw [degree_X_pow]
  · rfl
  · exact degree_polyOf_lt gs

theorem polyOf_modByMonic_of_short {b : Bits} (short : b.length < g.length) :
    polyOf b %ₘ polyOf g = polyOf b := by
  rw [modByMonic_eq_self_iff (monic_polyOf lead), degree_polyOf lead]
  exact (degree_polyOf_lt b).trans_le (by exact_mod_cast Nat.le_sub_one_of_lt short)

end

/-! ## The division is polynomial long division -/

/-- A step's exclusive-or changes the register by `g(x)` or not at all, so it keeps the register's
residue modulo `g(x)`, the image under `AdjoinRoot.mk` (R151). -/
theorem residue_reduce {g r : Bits} (len : r.length = g.length) :
    AdjoinRoot.mk (polyOf g) (polyOf (reduce r g)) = AdjoinRoot.mk (polyOf g) (polyOf r) := by
  unfold reduce
  split
  · rw [polyOf_xorBits len, map_add, AdjoinRoot.mk_self, add_zero]
  · rfl

section
variable {g : Bits} (lead : g.head? = some true)
include lead

theorem polyOf_drop_reduce {r : Bits} (len : r.length = g.length) :
    polyOf ((reduce r g).drop 1) = polyOf (reduce r g) := by
  conv_rhs => rw [reduce_eq_cons lead len, polyOf_false_cons]

/-- The register and the bits still to come have the dividend's residue at every step (R151). -/
theorem residue_foldl_slide (d : Bits) {r : Bits} (len : r.length = g.length) :
    AdjoinRoot.mk (polyOf g) (polyOf (d.foldl (slide g) r)) =
      AdjoinRoot.mk (polyOf g) (polyOf (r ++ d)) := by
  induction d generalizing r with
  | nil => rw [List.foldl_nil, List.append_nil]
  | cons b rest ih =>
    rw [List.foldl_cons, ih (slide_length lead len b), slide, List.append_assoc,
      List.singleton_append, polyOf_append, polyOf_append, polyOf_drop_reduce lead len, map_add,
      map_mul, residue_reduce len, map_add, map_mul]

theorem polyOf_xorDivide {d : Bits} (long : g.length ≤ d.length) :
    polyOf (xorDivide d g) = polyOf d %ₘ polyOf g := by
  have start := List.length_take_of_le long
  have short : (xorDivide d g).length < g.length := by
    have pos := length_pos_of_head? lead
    rw [xorDivide_length_of_head? lead long]
    omega
  have residue : AdjoinRoot.mk (polyOf g) (polyOf (xorDivide d g)) =
      AdjoinRoot.mk (polyOf g) (polyOf d) := by
    rw [← polyOf_false_cons (xorDivide d g), ← lastRegister_eq_cons lead long, lastRegister,
      residue_reduce (foldl_slide_length lead _ start), residue_foldl_slide lead _ start,
      List.take_append_drop]
  rw [← polyOf_modByMonic_of_short lead short]
  exact modByMonic_eq_of_dvd_sub (monic_polyOf lead) (AdjoinRoot.mk_eq_mk.mp residue)

/-- A remainder of zeros says that `g(x)` divides the dividend (R151). -/
theorem xorDivide_eq_zeros_iff {d : Bits} (long : g.length ≤ d.length) :
    xorDivide d g = zeros (g.length - 1) ↔ polyOf g ∣ polyOf d := by
  rw [← modByMonic_eq_zero_iff_dvd (monic_polyOf lead), ← polyOf_xorDivide lead long]
  refine ⟨fun h => h ▸ polyOf_zeros _, fun h => polyOf_injective ?_ (h.trans (polyOf_zeros _).symm)⟩
  rw [xorDivide_length_of_head? lead long, zeros_length]

end

/-- Settles O37: every step keeps the residue modulo `g(x)`, and the result is shorter than `g`. -/
theorem xorDivideIsThePolynomialRemainder : Obligations.XorDivideIsThePolynomialRemainder :=
  fun _ _ lead long => ⟨xorDivide_length_of_head? lead long, polyOf_xorDivide lead long⟩

/-- Settles O38: so it is for polynomial remainders (O37), and the polynomial and the length
determine the sequence. -/
theorem xorDivideIsLinear : Obligations.XorDivideIsLinear := by
  intro a b g lead long len
  have longB : g.length ≤ b.length := len ▸ long
  have longX : g.length ≤ (xorBits a b).length := by
    rw [xorBits_length, len, min_self]
    exact longB
  have longZ (k : Nat) : g.length ≤ (List.replicate k false ++ a).length := by
    rw [List.length_append]
    omega
  have lenA := xorDivide_length_of_head? lead long
  have lenB := xorDivide_length_of_head? lead longB
  refine ⟨polyOf_injective ?_ ?_, fun k => polyOf_injective ?_ ?_⟩
  · rw [xorDivide_length_of_head? lead longX, xorBits_length, lenA, lenB, min_self]
  · rw [polyOf_xorBits (lenA.trans lenB.symm), polyOf_xorDivide lead longX, polyOf_xorBits len,
      add_modByMonic, polyOf_xorDivide lead long, polyOf_xorDivide lead longB]
  · rw [xorDivide_length_of_head? lead (longZ k), lenA]
  · rw [polyOf_xorDivide lead (longZ k), polyOf_append, ← zeros, polyOf_zeros, zero_mul, zero_add,
      polyOf_xorDivide lead long]

end Sys2Proof.Machine
end

section
/-! The commands of crc_lfsr_engine, as 42_crc.md lays them down (R140 to R147, R150). -/

namespace Sys2Proof.Machine

open Polynomial

/-! ## Named polynomials -/

/-- The commands see the pattern alone (R140). -/
theorem exec_congr_polyPattern {p q : Poly} (same : polyPattern p = polyPattern q) (s : State) :
    exec (.crcDiv p) s = exec (.crcDiv q) s ∧ exec (.crcGen p) s = exec (.crcGen q) s ∧
      exec (.crcVfy p) s = exec (.crcVfy q) s ∧
      ∀ shift, exec (.injUnd p shift) s = exec (.injUnd q shift) s := by
  simp only [exec, execCrcDiv, execCrcGen, execCrcVfy, execInjUnd, withPoly, same, and_self,
    implies_true]

/-- Settles O35: a name and its pattern as a literal have one bit pattern. -/
theorem namedPolynomialIsItsPattern : Obligations.NamedPolynomialIsItsPattern := by
  intro name pattern mem lit s
  refine exec_congr_polyPattern ?_ s
  simp only [List.mem_cons, Prod.mk.injEq, List.not_mem_nil, or_false] at mem
  obtain ⟨rfl, rfl⟩ | ⟨rfl, rfl⟩ | ⟨rfl, rfl⟩ | ⟨rfl, rfl⟩ := mem <;> decide

/-! ## Results and frames -/

section
variable {p : Poly} (lead : (polyPattern p).head? = some true) {s : State}
include lead

theorem exec_crcDiv_of_long (long : (polyPattern p).length ≤ s.ibuf.length)
    (fits : s.ibuf.length ≤ s.maxLen) :
    exec (.crcDiv p) s = .next (latchDivision s.ibuf (polyPattern p)
      (setObuf (xorDivide s.ibuf (polyPattern p)) s)) := by
  rw [exec, execCrcDiv, withPoly_of_valid _ _ _ (beq_of_eq lead), if_neg (not_lt.mpr long),
    if_neg (by omega)]

theorem exec_crcGen_of_empty (empty : s.ibuf = []) : exec (.crcGen p) s =
    .next (setPolyLatch (registerOf (polyPattern p)) (setObuf [] s)) := by
  rw [exec, execCrcGen, withPoly_of_valid _ _ _ (beq_of_eq lead), if_pos empty]

theorem exec_crcGen_of_fits (nonempty : s.ibuf ≠ [])
    (fits : s.ibuf.length + (polyPattern p).length - 1 ≤ s.maxLen) :
    let d := generateDividend s.ibuf (polyPattern p)
    exec (.crcGen p) s = .next (latchDivision d (polyPattern p)
      (setObuf (s.ibuf ++ xorDivide d (polyPattern p)) s)) := by
  have pos := length_pos_of_head? lead
  rw [exec, execCrcGen, withPoly_of_valid _ _ _ (beq_of_eq lead), if_neg nonempty,
    if_neg (by omega)]

theorem exec_crcVfy_of_empty (empty : s.ibuf = []) : exec (.crcVfy p) s =
    .next (setPolyLatch (registerOf (polyPattern p)) (setValid true s)) := by
  rw [exec, execCrcVfy, withPoly_of_valid _ _ _ (beq_of_eq lead), if_pos empty]

theorem exec_crcVfy_of_long (long : (polyPattern p).length ≤ s.ibuf.length) :
    exec (.crcVfy p) s = .next (latchDivision s.ibuf (polyPattern p)
      (setValid (decide (xorDivide s.ibuf (polyPattern p) = zeros ((polyPattern p).length - 1)))
        s)) := by
  have nonempty : s.ibuf ≠ [] :=
    List.length_pos_iff.mp ((length_pos_of_head? lead).trans long)
  rw [exec, execCrcVfy, withPoly_of_valid _ _ _ (beq_of_eq lead), if_neg nonempty,
    if_neg (not_lt.mpr long)]
  simp only [beq_eq_decide]

end

/-- Settles O40: the dividend is long enough, and its remainder fits since it does. -/
theorem crcDivLeavesTheRemainder : Obligations.CrcDivLeavesTheRemainder := fun _ _ lead long fits =>
  ⟨_, _, exec_crcDiv_of_long lead long fits, xorDivide_length_of_head? lead long⟩

/-- Settles O41: with empty data nothing is divided; otherwise the dividend is never too short. -/
theorem crcGenAppendsTheRemainder : Obligations.CrcGenAppendsTheRemainder := fun _ _ lead =>
  ⟨fun empty => ⟨_, _, exec_crcGen_of_empty lead empty⟩, fun nonempty fits =>
    ⟨_, _, _, exec_crcGen_of_fits lead nonempty fits, rfl,
      xorDivide_length_of_head? lead (generateDividend_long nonempty)⟩⟩

/-- Settles O42: with an empty codeword nothing is divided. -/
theorem crcVfyTestsTheRemainder : Obligations.CrcVfyTestsTheRemainder := fun _ _ lead =>
  ⟨fun empty => ⟨_, _, exec_crcVfy_of_empty lead empty⟩,
    fun long => ⟨_, _, exec_crcVfy_of_long lead long⟩⟩

/-! ## The registers SR and G -/

theorem getLsbD_registerOf (b : Bits) {i : Nat} (lt : i < 64) :
    (registerOf b).getLsbD i = b.reverse.getD i false := by
  rw [registerOf, BitVec.getLsbD_ofNat, decide_eq_true lt, Bool.true_and, testBit_toInt]

theorem toNat_registerOf {b : Bits} (fits : b.length ≤ 64) : (registerOf b).toNat = toInt b := by
  rw [registerOf, BitVec.toNat_ofNat,
    Nat.mod_eq_of_lt ((toInt_lt b).trans_le (Nat.pow_le_pow_right (by decide) fits))]

theorem toInt_xorBits {a b : Bits} (len : a.length = b.length) :
    toInt (xorBits a b) = toInt a ^^^ toInt b := by
  refine Nat.eq_of_testBit_eq fun i => ?_
  rw [Nat.testBit_xor, testBit_toInt, testBit_toInt, testBit_toInt, xorBits,
    List.reverse_zipWith len]
  obtain lt | le := Nat.lt_or_ge i b.length
  · simp [len, lt]
  · simp [len, le]

theorem registerOf_xorBits {a b : Bits} (len : a.length = b.length) :
    registerOf (xorBits a b) = registerOf a ^^^ registerOf b := by
  rw [registerOf, toInt_xorBits len, BitVec.ofNat_xor]
  rfl

theorem registerOf_false_cons (b : Bits) : registerOf (false :: b) = registerOf b := by
  simp [registerOf, toInt_cons]

/-- Shifting a bit into a register appends it; what leaves the 64 bits is dropped. -/
theorem registerOf_concat (b : Bits) (c : Bool) :
    registerOf (b ++ [c]) = registerOf b <<< 1 ||| (BitVec.ofBool c).setWidth 64 := by
  refine BitVec.eq_of_getLsbD_eq fun i lt => ?_
  rw [getLsbD_registerOf _ lt, List.reverse_concat]
  cases i with
  | zero => simp
  | succ i => simp [-BitVec.getLsbD_eq_getElem, getLsbD_registerOf b (Nat.lt_of_succ_lt lt), lt]

section
variable {g : Bits} (lead : g.head? = some true) (fits : g.length ≤ 64)
include lead fits

/-- The leading bit of a sequence of `n` bits stands in bit `n - 1` (R150). -/
theorem getLsbD_registerOf_leading {r : Bits} (len : r.length = g.length) :
    (registerOf r).getLsbD (g.length - 1) = (r.head? == some true) := by
  have pos := length_pos_of_head? lead
  rw [getLsbD_registerOf r (by omega), ← len]
  cases r with
  | nil => rw [← len] at pos; cases pos
  | cons c rs => simp

theorem reduceRegister_registerOf {r : Bits} (len : r.length = g.length) :
    reduceRegister g.length (registerOf g) (registerOf r) = registerOf (reduce r g) := by
  rw [reduceRegister, getLsbD_registerOf_leading lead fits len, reduce, ← registerOf_xorBits len]
  split <;> rfl

theorem shiftIn_registerOf {r : Bits} (len : r.length = g.length) (b : Bool) :
    shiftIn g.length (registerOf g) (registerOf r) b = registerOf (slide g r b) := by
  rw [shiftIn, reduceRegister_registerOf lead fits len, slide, registerOf_concat,
    reduce_eq_cons lead len, registerOf_false_cons]
  rfl

theorem foldl_shiftIn_registerOf (d : Bits) {r : Bits} (len : r.length = g.length) :
    d.foldl (shiftIn g.length (registerOf g)) (registerOf r) =
      registerOf (d.foldl (slide g) r) := by
  induction d generalizing r with
  | nil => rfl
  | cons b rest ih =>
    rw [List.foldl_cons, shiftIn_registerOf lead fits len, ih (slide_length lead len b)]
    rfl

/-- SR holds the remainder, right-aligned, when the division ends (R150). -/
theorem shiftRegisterAfter_eq {d : Bits} (long : g.length ≤ d.length) :
    shiftRegisterAfter d g = registerOf (xorDivide d g) := by
  have start := List.length_take_of_le long
  rw [← registerOf_false_cons, ← lastRegister_eq_cons lead long, shiftRegisterAfter,
    foldl_shiftIn_registerOf lead fits _ start,
    reduceRegister_registerOf lead fits (foldl_slide_length lead _ start), lastRegister]

end

theorem toBits_registerOf {b : Bits} (fits : b.length ≤ 64) :
    toBits (registerOf b).toNat b.length = some b := by
  rw [toNat_registerOf fits, toBits_eq_some _ _ (toInt_lt b), lowBits_toInt]

theorem length_polyPattern_le {p : Poly} (wf : p.wellFormed = true) :
    (polyPattern p).length ≤ 64 := by
  cases p with
  | literal bits => exact of_decide_eq_true wf
  | crc8 | crc10 | crc16 | crc32 => decide

/-- Settles O39: the registers step as the sequences do, and SR ends with a leading 0 before the
remainder. -/
theorem shiftRegisterComputesTheRemainder : Obligations.ShiftRegisterComputesTheRemainder := by
  intro p s wf lead long fits
  have width : (polyPattern p).length ≤ 64 := length_polyPattern_le wf
  have len := xorDivide_length_of_head? lead long
  have sr := toBits_registerOf (b := xorDivide s.ibuf (polyPattern p)) (by omega)
  rw [← shiftRegisterAfter_eq lead width long, len] at sr
  exact ⟨_, exec_crcDiv_of_long lead long fits, sr, toBits_registerOf width⟩

/-! ## The round trip -/

/-- What CRC.VFY accepts (R147): nothing, or a sequence long enough with a remainder of zeros. -/
def IsCodeword (g c : Bits) : Prop :=
  c = [] ∨ g.length ≤ c.length ∧ xorDivide c g = zeros (g.length - 1)

/-- Appending the remainder of `b(x) x^(n-1)` makes a multiple of `g(x)` (R149 (a)). -/
theorem isCodeword_append_remainder {b g : Bits} (lead : g.head? = some true)
    (nonempty : b ≠ []) : IsCodeword g (b ++ xorDivide (generateDividend b g) g) := by
  have long := generateDividend_long (g := g) nonempty
  have len := xorDivide_length_of_head? lead long
  have long' : g.length ≤ (b ++ xorDivide (generateDividend b g) g).length := by
    rwa [List.length_append, len, ← zeros_length (g.length - 1), ← List.length_append]
  have dividend : polyOf (generateDividend b g) = polyOf b * X ^ (g.length - 1) := by
    rw [generateDividend, polyOf_append, polyOf_zeros, zeros_length, add_zero]
  refine .inr ⟨long', ?_⟩
  rw [xorDivide_eq_zeros_iff lead long', polyOf_append, len, ← dividend,
    polyOf_xorDivide lead long, ← CharTwo.sub_eq_add, modByMonic_eq_sub_mul_div, sub_sub_cancel]
  exact dvd_mul_right _ _

section
variable {p : Poly} (lead : (polyPattern p).head? = some true) {s : State}
include lead

theorem exec_crcGen_writes_codeword
    (room : s.ibuf = [] ∨ s.ibuf.length + (polyPattern p).length - 1 ≤ s.maxLen) :
    ∃ out sr g, exec (.crcGen p) s = .next { s with obuf := out, sr := sr, gLatch := g } ∧
      IsCodeword (polyPattern p) out ∧ s.ibuf <+: out := by
  by_cases empty : s.ibuf = []
  · exact ⟨_, _, _, exec_crcGen_of_empty lead empty, .inl rfl, empty ▸ List.nil_prefix⟩
  · exact ⟨_, _, _, exec_crcGen_of_fits lead empty (room.resolve_left empty),
      isCodeword_append_remainder lead empty, List.prefix_append _ _⟩

theorem exec_crcVfy_of_isCodeword (codeword : IsCodeword (polyPattern p) s.ibuf) :
    ∃ sr g, exec (.crcVfy p) s = .next { s with valid := true, sr := sr, gLatch := g } := by
  obtain empty | ⟨long, zero⟩ := codeword
  · exact ⟨_, _, exec_crcVfy_of_empty lead empty⟩
  · have run := exec_crcVfy_of_long lead long
    rw [decide_eq_true zero] at run
    exact ⟨_, _, run⟩

end

/-- Settles O43: CRC.VFY reads the codeword CRC.GEN wrote, and a codeword verifies. -/
theorem crcRoundTripVerifies : Obligations.CrcRoundTripVerifies := by
  intro p s ready wf lead room
  obtain ⟨out, sr, g, generated, codeword, data⟩ := exec_crcGen_writes_codeword lead room
  let t := settle { s with obuf := out, sr := sr, gLatch := g }
  obtain ⟨sr', g', verified⟩ := exec_crcVfy_of_isCodeword (s := settle (setIbuf out t))
    lead codeword
  have issued := calc issueAll [.crcGen p, .mov, .crcVfy p] s
    _ = issueAll [.mov, .crcVfy p] t := issueAll_cons wf ready generated
    _ = issueAll [.crcVfy p] (settle (setIbuf out t)) := issueAll_cons rfl ready rfl
    _ = issueAll [] _ := issueAll_cons wf ready verified
  exact ⟨_, issued, rfl, ready, data⟩

end Sys2Proof.Machine
end

section
/-! The error patterns crc_lfsr_engine detects, as 42_crc.md lays them down (R149). -/

namespace Sys2Proof.Machine

open Polynomial

/-! ## A single flipped bit -/

theorem polyOf_flipBit {c : Bits} {i : Nat} (lt : i < c.length) :
    polyOf (flipBit c i) = polyOf c + X ^ (c.length - 1 - i) := by
  induction c generalizing i with
  | nil => cases lt
  | cons b c ih =>
    cases i with
    | zero =>
      have flipped : flipBit (b :: c) 0 = (!b) :: c := rfl
      rw [flipped, polyOf_cons, polyOf_cons]
      cases b
      · simp [add_comm]
      · simp [add_right_comm, CharTwo.add_self_eq_zero]
    | succ i =>
      have flipped : flipBit (b :: c) (i + 1) = b :: flipBit c i := rfl
      have power : c.length - 1 - i = (b :: c).length - 1 - (i + 1) := by
        rw [List.length_cons]
        omega
      rw [flipped, polyOf_cons, polyOf_cons, ih (Nat.lt_of_succ_lt_succ lt), flipBit_length, power,
        add_assoc]

section
variable {g : Bits} (lead : g.head? = some true)
include lead

/-- With one 1 bit, its leading one, `g(x)` is a bare power of `x`. -/
theorem polyOf_eq_X_pow_iff : polyOf g = X ^ (g.length - 1) ↔ g.count true = 1 := by
  obtain ⟨gs, rfl⟩ := List.head?_eq_some_iff.mp lead
  rw [polyOf_cons, if_pos rfl]
  simpa using polyOf_eq_zero_iff gs

/-- The divisors of a power of `x` are the powers of `x` below it. -/
theorem polyOf_dvd_X_pow_iff (k : Nat) :
    polyOf g ∣ X ^ k ↔ g.count true = 1 ∧ g.length - 1 ≤ k := by
  rw [← polyOf_eq_X_pow_iff lead]
  refine ⟨fun h => ?_, fun ⟨power, le⟩ => power ▸ pow_dvd_pow X le⟩
  obtain ⟨i, le, assoc⟩ := (dvd_prime_pow prime_X k).mp h
  have power := eq_of_monic_of_associated (monic_polyOf lead) (monic_X_pow i) assoc
  have degree := degree_polyOf lead
  rw [power, degree_X_pow, Nat.cast_inj] at degree
  exact degree ▸ ⟨power, le⟩

/-- A flip adds one power of `x`, so it leaves a codeword exactly when `g(x)` divides that power. -/
theorem xorDivide_flipBit_eq_zeros_iff {c : Bits} {i : Nat} (long : g.length ≤ c.length)
    (lt : i < c.length) (codeword : xorDivide c g = zeros (g.length - 1)) :
    xorDivide (flipBit c i) g = zeros (g.length - 1) ↔
      g.count true = 1 ∧ g.length - 1 ≤ c.length - 1 - i := by
  have divides := (xorDivide_eq_zeros_iff lead long).mp codeword
  rw [xorDivide_eq_zeros_iff lead (long.trans_eq (flipBit_length c i).symm), polyOf_flipBit lt,
    dvd_add_right divides, polyOf_dvd_X_pow_iff lead]

end

/-- Settles O44: only a polynomial with one 1 bit divides a power of `x`. -/
theorem singleBitErrorsAreDetected : Obligations.SingleBitErrorsAreDetected := by
  intro g c i lead long lt codeword
  have judged := xorDivide_flipBit_eq_zeros_iff lead long lt codeword
  refine ⟨fun two missed => ?_, fun one before => judged.mpr ⟨one, by omega⟩⟩
  have one := (judged.mp missed).1
  omega

/-! ## A burst -/

theorem isCoprime_polyOf_X {g : Bits} (last : g.getLast? = some true) : IsCoprime (polyOf g) X := by
  obtain ⟨h, rfl⟩ := List.getLast?_eq_some_iff.mp last
  refine ⟨1, -polyOf h, ?_⟩
  rw [polyOf_concat, if_pos rfl]
  ring

section
variable {g : Bits} (lead : g.head? = some true)
include lead

/-- Sequences shorter than `g` that leave the same remainder are the same. -/
theorem eq_of_dvd_sub {a b : Bits} (short : a.length < g.length) (len : a.length = b.length)
    (divides : polyOf g ∣ polyOf a - polyOf b) : a = b := by
  have same := modByMonic_eq_of_dvd_sub (monic_polyOf lead) divides
  rw [polyOf_modByMonic_of_short lead short, polyOf_modByMonic_of_short lead (len ▸ short)] at same
  exact polyOf_injective len same

/-- Two codewords with a common part before and after a window shorter than `g` agree in it. -/
theorem window_eq_of_codewords (last : g.getLast? = some true) {before x y after : Bits}
    (short : x.length < g.length) (len : x.length = y.length)
    (dvdX : polyOf g ∣ polyOf (before ++ (x ++ after)))
    (dvdY : polyOf g ∣ polyOf (before ++ (y ++ after))) : x = y := by
  have difference : polyOf (before ++ (x ++ after)) - polyOf (before ++ (y ++ after)) =
      (polyOf x - polyOf y) * X ^ after.length := by
    simp only [polyOf_append, List.length_append, len]
    ring
  have divides := difference ▸ dvd_sub dvdX dvdY
  have coprime := (isCoprime_polyOf_X last).pow_right (n := after.length)
  exact eq_of_dvd_sub lead short len (coprime.dvd_of_dvd_mul_right divides)

end

theorem eq_append_window (s : Bits) (a m : Nat) :
    s = s.take a ++ ((s.drop a).take m ++ s.drop (a + m)) := by
  rw [← List.drop_drop, List.take_append_drop, List.take_append_drop]

theorem take_eq_and_drop_eq_of_confined {e word : Bits} {a m : Nat}
    (confined : ∀ j : Nat, e[j]? ≠ word[j]? → a ≤ j ∧ j < a + m) :
    e.take a = word.take a ∧ e.drop (a + m) = word.drop (a + m) := by
  have outside (j : Nat) (out : j < a ∨ a + m ≤ j) : e[j]? = word[j]? := by
    by_contra differ
    have inside := confined j differ
    omega
  refine ⟨List.ext_getElem? fun j => ?_, List.ext_getElem? fun j => ?_⟩
  · rw [List.getElem?_take, List.getElem?_take]
    split
    · next lt => exact outside j (.inl lt)
    · rfl
  · rw [List.getElem?_drop, List.getElem?_drop]
    exact outside _ (.inr (Nat.le_add_right _ _))

/-- Codewords that differ at most inside a window shorter than `g` do not differ. -/
theorem eq_of_confined_codewords {g word e : Bits} {a m : Nat} (lead : g.head? = some true)
    (last : g.getLast? = some true) (len : e.length = word.length) (short : m < g.length)
    (confined : ∀ j : Nat, e[j]? ≠ word[j]? → a ≤ j ∧ j < a + m)
    (dvdWord : polyOf g ∣ polyOf word) (dvdE : polyOf g ∣ polyOf e) : e = word := by
  obtain ⟨before, after⟩ := take_eq_and_drop_eq_of_confined confined
  have splitE := eq_append_window e a m
  rw [before, after] at splitE
  rw [splitE] at dvdE
  rw [eq_append_window word a m] at dvdWord
  have window : (e.drop a).take m = (word.drop a).take m :=
    window_eq_of_codewords lead last ((List.length_take_le _ _).trans_lt short) (by simp [len])
      dvdE dvdWord
  rw [splitE, window, ← eq_append_window]

/-- A sequence with last bit 0 has zeros from its last bit on. -/
theorem getElem?_eq_zeros_of_last {g : Bits} (last : g.getLast? = some false) {j : Nat}
    (le : g.length - 1 ≤ j) : g[j]? = (zeros g.length)[j]? := by
  obtain ⟨h, rfl⟩ := List.getLast?_eq_some_iff.mp last
  rw [List.length_append, List.length_singleton, Nat.add_sub_cancel] at le
  obtain rfl | above := Nat.eq_or_lt_of_le le
  · simp [zeros]
  · rw [List.getElem?_eq_none (by simpa using above),
      List.getElem?_eq_none (by simpa using above)]

theorem ne_zeros_of_head? {g : Bits} (lead : g.head? = some true) (k : Nat) : g ≠ zeros k := by
  intro h
  cases List.eq_of_mem_replicate (h ▸ List.mem_of_mem_head? lead)

/-- Settles O45: `g(x)` with a constant term is coprime to `x`, so it would divide the burst alone,
which is shorter; with last bit 0, `g` itself is a burst that turns the codeword `0^n` into `g`. -/
theorem shortBurstsAreDetected : Obligations.ShortBurstsAreDetected := by
  intro g lead
  have pos := length_pos_of_head? lead
  refine ⟨fun last word e a m long len short differ confined codeword missed => ?_,
    fun last => ⟨zeros g.length, g, g.length - 1, (zeros_length _).ge, (zeros_length _).symm,
      by omega, ne_zeros_of_head? lead _, fun j differ => ?_, ?_, ?_⟩⟩
  · exact differ (eq_of_confined_codewords lead last len short confined
      ((xorDivide_eq_zeros_iff lead long).mp codeword)
      ((xorDivide_eq_zeros_iff lead (len ▸ long)).mp missed))
  · exact lt_of_not_ge fun le => differ (getElem?_eq_zeros_of_last last le)
  · exact (xorDivide_eq_zeros_iff lead (zeros_length _).ge).mpr (polyOf_zeros _ ▸ dvd_zero _)
  · exact (xorDivide_eq_zeros_iff lead le_rfl).mpr dvd_rfl

end Sys2Proof.Machine
end


section
/-! INJ.UND, as 43_error_injector.md lays it down (R178, R179): its mask bit by bit, the mask as a
polynomial, and why it is invisible to the division by the same polynomial. -/

namespace Sys2Proof.Machine

open Polynomial

/-! ## The mask, bit by bit -/

/-- The bit of R178's mask at index `i`, the pattern's first bit standing at `pos`. -/
def maskBit (pos : Int) (g : Bits) (i : Nat) : Bool :=
  decide (pos ≤ i ∧ g[((i : Int) - pos).toNat]? = some true)

theorem maskBit_of_lt {pos : Int} {i : Nat} (before : (i : Int) < pos) (g : Bits) :
    maskBit pos g i = false := by
  simp [maskBit, before]

theorem maskBit_of_eq_add {pos : Int} {i k : Nat} (offset : (i : Int) = pos + k) (g : Bits) :
    maskBit pos g i = g.getD k false := by
  have le : pos ≤ (i : Int) := by omega
  have toNat : ((i : Int) - pos).toNat = k := by omega
  rw [maskBit, toNat, List.getD_eq_getElem?_getD]
  cases g[k]? <;> simp [le]

/-- One more pattern bit is one more mask bit, right after those there were. -/
theorem maskBit_concat (pos : Int) (g : Bits) (b : Bool) (i : Nat) :
    maskBit pos (g ++ [b]) i = (maskBit pos g i ^^ (decide (pos + g.length = i) && b)) := by
  obtain before | ⟨k, offset⟩ : (i : Int) < pos ∨ ∃ k : Nat, (i : Int) = pos + k :=
    (lt_or_ge (i : Int) pos).imp_right fun le => ⟨((i : Int) - pos).toNat, by omega⟩
  · have apart : pos + g.length ≠ i := by omega
    simp [maskBit_of_lt before, apart]
  · have last : pos + g.length = i ↔ k = g.length := by omega
    rw [maskBit_of_eq_add offset, maskBit_of_eq_add offset]
    simp only [last]
    obtain lt | rfl | gt := lt_trichotomy k g.length
    · simp [List.getElem?_append_left lt, lt.ne]
    · simp
    · simp [List.getElem?_append_right gt.le, gt.ne', gt.le, Nat.sub_ne_zero_of_lt gt]

theorem getElem?_applyMaskBit (data g : Bits) (shift : Nat) {work : Bits}
    (len : work.length = data.length) {j : Nat} (lt : j < g.length) (i : Nat) :
    (applyMaskBit data g shift work j)[i]? = work[i]?.map fun b =>
      b ^^ (decide (maskPosition data.length g.length shift + j = i) && g[j]) := by
  obtain out | inside := Nat.lt_or_ge i work.length |>.symm
  · have outM : (applyMaskBit data g shift work j).length ≤ i := by rwa [applyMaskBit_length]
    rw [List.getElem?_eq_none outM, List.getElem?_eq_none out]
    rfl
  · simp only [applyMaskBit, List.getElem?_eq_getElem lt, Option.some.injEq]
    split
    · next hit =>
      obtain ⟨low, -, one⟩ := hit
      have here : (maskPosition data.length g.length shift + j).toNat = i ↔
          maskPosition data.length g.length shift + j = i := by omega
      rw [getElem?_flipBit, one, Bool.and_true]
      simp only [here]
      split <;> simp [*]
    · next miss =>
      have same : (decide (maskPosition data.length g.length shift + j = i) && g[j]) = false := by
        rw [Bool.and_eq_false_imp, decide_eq_true_iff]
        intro here
        rw [← Bool.not_eq_true]
        exact fun one => miss ⟨by omega, by omega, one⟩
      simp [same]

/-- The passes so far have applied the mask of as many pattern bits. -/
theorem getElem?_foldl_applyMaskBit (data g : Bits) (shift : Nat) {m : Nat} (le : m ≤ g.length)
    (i : Nat) :
    ((List.range m).foldl (applyMaskBit data g shift) data)[i]? = data[i]?.map fun b =>
      b ^^ maskBit (maskPosition data.length g.length shift) (g.take m) i := by
  induction m with
  | zero => simp [maskBit]
  | succ m ih =>
    have len : ((List.range m).foldl (applyMaskBit data g shift) data).length = data.length :=
      List.foldlRecOn (motive := fun work => work.length = data.length) _ _ rfl
        fun work len j _ => (applyMaskBit_length data g shift work j).trans len
    rw [List.range_succ, List.foldl_concat, getElem?_applyMaskBit data g shift len le,
      ih (Nat.le_of_succ_le le), Option.map_map, List.take_succ_eq_append_getElem le]
    simp only [maskBit_concat, List.length_take_of_le (Nat.le_of_succ_le le), Function.comp_def,
      Bool.xor_assoc]

theorem getElem?_applyMask (data g : Bits) (shift i : Nat) :
    (applyMask data g shift)[i]? = data[i]?.map fun b =>
      b ^^ maskBit (maskPosition data.length g.length shift) g i := by
  rw [applyMask, getElem?_foldl_applyMaskBit data g shift le_rfl, List.take_length]

theorem exec_injUnd {p : Poly} (lead : (polyPattern p).head? = some true) (shift : Imm)
    (s : State) : exec (.injUnd p shift) s =
      .next (setObuf (applyMask s.ibuf (polyPattern p) shift.toNat) s) := by
  rw [exec, execInjUnd, withPoly_of_valid _ _ _ (beq_of_eq lead)]

/-- Settles O50: the passes over the pattern apply its mask bit by bit, and no draw is made. -/
theorem injUndAppliesItsMask : Obligations.InjUndAppliesItsMask := by
  intro p shift s lead
  refine ⟨_, exec_injUnd lead shift s, fun i => ?_⟩
  have flips (c : Prop) [Decidable c] (b : Bool) : (b ^^ decide c) = if c then !b else b := by
    split <;> simp [*]
  rw [getElem?_applyMask, maskPosition]
  simp only [maskBit, flips]

/-! ## The mask as a polynomial -/

/-- The pattern between zeros holds the bits of R178's mask. -/
theorem getElem?_zeros_append_zeros {d g : Bits} {shift : Nat} (fits : shift + g.length ≤ d.length)
    {i : Nat} (lt : i < d.length) :
    (zeros (d.length - g.length - shift) ++ (g ++ zeros shift))[i]? =
      some (maskBit (maskPosition d.length g.length shift) g i) := by
  obtain before | le := Nat.lt_or_ge i (d.length - g.length - shift)
  · rw [List.getElem?_append_left (by simpa using before),
      maskBit_of_lt (by rw [maskPosition]; omega)]
    simp [zeros, before]
  · obtain ⟨k, rfl⟩ := Nat.exists_eq_add_of_le le
    rw [List.getElem?_append_right (by simp), zeros_length, Nat.add_sub_cancel_left,
      maskBit_of_eq_add (k := k) (by rw [maskPosition]; omega)]
    obtain inside | after := Nat.lt_or_ge k g.length
    · simp [List.getElem?_append_left inside, inside]
    · rw [List.getElem?_append_right after, List.getD_eq_default _ _ after, zeros,
        List.getElem?_replicate_of_lt (by omega)]

/-- Inside the data the mask is the pattern between zeros (R179). -/
theorem applyMask_eq_xorBits {d g : Bits} {shift : Nat} (fits : shift + g.length ≤ d.length) :
    applyMask d g shift =
      xorBits d (zeros (d.length - g.length - shift) ++ (g ++ zeros shift)) := by
  refine List.ext_getElem? fun i => ?_
  rw [getElem?_applyMask, xorBits, List.getElem?_zipWith]
  obtain lt | le := Nat.lt_or_ge i d.length
  · simp [getElem?_zeros_append_zeros fits lt, lt]
  · simp [le]

theorem polyOf_applyMask {d g : Bits} {shift : Nat} (fits : shift + g.length ≤ d.length) :
    polyOf (applyMask d g shift) = polyOf d + polyOf g * X ^ shift := by
  rw [applyMask_eq_xorBits fits, polyOf_xorBits, polyOf_append, polyOf_append, polyOf_zeros,
    polyOf_zeros, zeros_length, zero_mul, zero_add, add_zero]
  simp only [List.length_append, zeros_length]
  omega

section
variable {d g : Bits} {shift : Nat} (lead : g.head? = some true)
  (fits : shift + g.length ≤ d.length)
include lead fits

theorem xorDivide_applyMask : xorDivide (applyMask d g shift) g = xorDivide d g := by
  have long : g.length ≤ d.length := Nat.le_of_add_left_le fits
  have longM : g.length ≤ (applyMask d g shift).length := by rwa [applyMask_length]
  refine polyOf_injective ?_ ?_
  · rw [xorDivide_length_of_head? lead longM, xorDivide_length_of_head? lead long]
  · have multiple : polyOf g * X ^ shift %ₘ polyOf g = 0 :=
      (modByMonic_eq_zero_iff_dvd (monic_polyOf lead)).mpr (dvd_mul_right _ _)
    rw [polyOf_xorDivide lead longM, polyOf_applyMask fits, add_modByMonic, multiple, add_zero,
      polyOf_xorDivide lead long]

theorem applyMask_ne : applyMask d g shift ≠ d := by
  intro same
  have poly := polyOf_applyMask fits
  rw [same, left_eq_add] at poly
  exact ((monic_polyOf lead).mul (monic_X_pow shift)).ne_zero poly

theorem isCodeword_applyMask (codeword : IsCodeword g d) : IsCodeword g (applyMask d g shift) := by
  have pos := length_pos_of_head? lead
  obtain rfl | ⟨long, zero⟩ := codeword
  · rw [List.length_nil] at fits
    omega
  · exact .inr ⟨long.trans_eq (applyMask_length d g shift).symm,
      (xorDivide_applyMask lead fits).trans zero⟩

end

/-- Settles O51: inside the data the mask is `g(x) x^shift`, a multiple of `g(x)` other than 0; the
codeword of CRC.GEN has room for it, since the shift is below the length of the data. -/
theorem alignedCorruptionIsInvisible : Obligations.AlignedCorruptionIsInvisible := by
  refine ⟨fun g d shift lead fits => ⟨xorDivide_applyMask lead fits, applyMask_ne lead fits⟩,
    fun p shift s ready wf lead inside room => ?_⟩
  have nonempty : s.ibuf ≠ [] := List.length_pos_iff.mp (Nat.zero_lt_of_lt inside)
  set g := polyPattern p
  let out := s.ibuf ++ xorDivide (generateDividend s.ibuf g) g
  let bad := applyMask out g shift.toNat
  have fits : shift.toNat + g.length ≤ out.length := by
    rw [List.length_append, xorDivide_length_of_head? lead (generateDividend_long nonempty)]
    omega
  let gen := settle (latchDivision (generateDividend s.ibuf g) g (setObuf out s))
  let c := settle (setIbuf out gen)
  let und := settle (setObuf bad c)
  let moved := settle (setIbuf bad und)
  obtain ⟨sr, l, verified⟩ := exec_crcVfy_of_isCodeword (s := moved) lead
    (isCodeword_applyMask lead fits (isCodeword_append_remainder lead nonempty))
  have made := calc issueAll [.crcGen p, .mov] s
    _ = issueAll [.mov] gen := issueAll_cons wf ready (exec_crcGen_of_fits lead nonempty room)
    _ = .next c := issueAll_cons rfl ready rfl
  have judged := calc issueAll [.injUnd p shift, .mov, .crcVfy p] c
    _ = issueAll [.mov, .crcVfy p] und := issueAll_cons wf ready (exec_injUnd lead shift c)
    _ = issueAll [.crcVfy p] moved := issueAll_cons rfl ready rfl
    _ = issueAll [] _ := issueAll_cons wf ready verified
  exact ⟨c, _, made, (issueAll_append made).trans judged, rfl, ready, applyMask_ne lead fits,
    applyMask_length out g shift.toNat⟩

end Sys2Proof.Machine
end

section
/-! The draws of a command, as 43_error_injector.md lays them down (R171, R172): a run of answers
that were all in range, the three ways the draws of a command end, and what follows for every command
that waits (R174, R180). -/

namespace Sys2Proof.Machine

/-! ## Answers in range -/

/-- The draws `used`, each answered in range, take the working registers from `run` to the last
index (R172). -/
inductive Accepted (run : InjRun) : List Draw → InjRun → Prop where
  | nil : Accepted run [] run
  | snoc {used : List Draw} {run' : InjRun} {q : DrawRequest} {r : Nat}
      (drawn : Accepted run used run') (next : injRequest run' = some q)
      (range : inRange q r = true) : Accepted run (used ++ [⟨q, r⟩]) (injAccept run' r)

/-- Draws that have been answered: they are on record, in order (R171; log 14). -/
def recordDraws (used : List Draw) (s : State) : State := { s with draws := s.draws ++ used }

@[simp] theorem recordDraws_nil (s : State) : recordDraws [] s = s := by
  simp [recordDraws]

theorem recordDraw_recordDraws (used : List Draw) (q : DrawRequest) (r : Nat) (s : State) :
    recordDraw q r (recordDraws used s) = recordDraws (used ++ [⟨q, r⟩]) s := by
  simp [recordDraw, recordDraws]

section
variable {run run' : InjRun} {used : List Draw}

theorem Accepted.length_injWork (drawn : Accepted run used run') :
    (injWork run').length = (injWork run).length := by
  induction drawn with
  | nil => rfl
  | snoc _ _ _ ih => rw [injWork_accept_length, ih]

theorem Accepted.inRange (drawn : Accepted run used run') :
    ∀ d ∈ used, inRange d.request d.answer = true := by
  induction drawn with
  | nil => exact nofun
  | snoc _ _ range ih =>
    simpa only [List.forall_mem_append, List.forall_mem_singleton] using ⟨ih, range⟩

theorem runDraws_of_accepted (drawn : Accepted run used run') (rest : List Nat) (s : State) :
    runDraws (used.map Draw.answer ++ rest) run s = runDraws rest run' (recordDraws used s) := by
  induction drawn generalizing rest with
  | nil => simp
  | snoc _ next range ih =>
    rw [List.map_append, List.append_assoc, ih, ← recordDraw_recordDraws]
    exact runDraws_answered _ _ _ _ _ next range

end

/-! ## How the draws of a command end -/

/-- Everything the draws of a command can come to, after some answered in range: the command
completes, waits at a draw without an answer, or rejects an answer (R172). -/
inductive DrawsEnd (answers : List Nat) (run : InjRun) (s : State) : State → Prop where
  | finished {used : List Draw} {rest : List Nat} {run' : InjRun} (drawn : Accepted run used run')
      (split : answers = used.map Draw.answer ++ rest) (done : injRequest run' = none) :
      DrawsEnd answers run s (finishInj run' rest (recordDraws used s))
  | waiting {used : List Draw} {run' : InjRun} {q : DrawRequest} (drawn : Accepted run used run')
      (all : answers = used.map Draw.answer) (next : injRequest run' = some q) :
      DrawsEnd answers run s (awaitAnswer run' (recordDraws used s))
  | rejected {used : List Draw} {r : Nat} {rest : List Nat} {run' : InjRun} {q : DrawRequest}
      (drawn : Accepted run used run') (split : answers = used.map Draw.answer ++ r :: rest)
      (next : injRequest run' = some q) (bad : inRange q r = false) :
      DrawsEnd answers run s (rejectAnswer rest (recordDraws (used ++ [⟨q, r⟩]) s))

/-- After any draws answered in range, what the answers still to come make of the command. -/
theorem drawsEnd_of_accepted {used : List Draw} {run run' : InjRun}
    (drawn : Accepted run used run') (rest : List Nat) (s : State) :
    DrawsEnd (used.map Draw.answer ++ rest) run s (runDraws rest run' (recordDraws used s)) := by
  induction rest generalizing used run' with
  | nil =>
    cases next : injRequest run' with
    | none =>
      rw [runDraws_finished _ [] run' next]
      exact .finished drawn rfl next
    | some q =>
      rw [runDraws_silent _ run' q next]
      exact .waiting drawn (List.append_nil _) next
  | cons r rest ih =>
    cases next : injRequest run' with
    | none =>
      rw [runDraws_finished _ (r :: rest) run' next]
      exact .finished drawn rfl next
    | some q =>
      cases range : inRange q r with
      | true =>
        rw [runDraws_answered _ r rest run' q next range, recordDraw_recordDraws]
        simpa using ih (drawn.snoc next range)
      | false =>
        rw [runDraws_rejected _ r rest run' q next range, recordDraw_recordDraws]
        exact .rejected drawn rfl next range

theorem runDraws_ends (answers : List Nat) (run : InjRun) (s : State) :
    DrawsEnd answers run s (runDraws answers run s) := by
  simpa using drawsEnd_of_accepted .nil answers s

/-- A command overwrites the answers left and the command in progress, and reads neither. -/
theorem runDraws_overwrites (answers stale : List Nat) (run : InjRun) (old : Option InjRun)
    (s : State) :
    runDraws answers run { s with answers := stale, inj := old } = runDraws answers run s := by
  induction answers generalizing run s with
  | nil =>
    rw [runDraws, runDraws]
    cases injRequest run <;> rfl
  | cons r rest ih =>
    rw [runDraws, runDraws]
    cases injRequest run with
    | none => rfl
    | some q =>
      dsimp only
      split
      · exact ih (injAccept run r) (recordDraw q r s)
      · rfl

section
variable {run run' : InjRun} {used : List Draw} {s : State} (drawn : Accepted run used run')
include drawn

/-- With an answer in range for every draw a command completes, and leaves the other answers. -/
theorem runDraws_completes (done : injRequest run' = none) (idle : s.inj = none)
    (rest : List Nat) : runDraws (used.map Draw.answer ++ rest) run s =
      { s with obuf := injWork run', answers := rest, draws := s.draws ++ used } := by
  rw [runDraws_of_accepted drawn, runDraws_finished _ rest run' done]
  simp only [idle]
  rfl

/-- With answers in range but too few a command waits at its next draw. -/
theorem runDraws_waits {q : DrawRequest} (next : injRequest run' = some q) :
    runDraws (used.map Draw.answer) run s =
      { s with answers := [], draws := s.draws ++ used, inj := some run' } := by
  rw [← List.append_nil (used.map Draw.answer), runDraws_of_accepted drawn,
    runDraws_silent _ run' q next]
  rfl

end

/-! ## The commands that draw -/

theorem exec_injRnd {count : Imm} {s : State} (range : ¬ (1 ≤ count.toNat ∧ s.ibuf = [])) :
    exec (.injRnd count) s = .next (runDraws s.answers (.flips count.toNat s.ibuf) s) :=
  if_neg range

theorem exec_injBst {size : Imm} {s : State} (range : size.toNat ≤ s.ibuf.length) :
    exec (.injBst size) s = .next (runDraws s.answers (.burstStart size.toNat s.ibuf) s) :=
  if_neg (not_lt.mpr range)

theorem exec_injOdd {s : State} (range : 2 ≤ s.ibuf.length) :
    exec .injOdd s = .next (runDraws s.answers (.oddCount s.ibuf) s) :=
  if_neg (not_lt.mpr range)

/-- A command that waits has passed its checks, which do not look at the answers, so with any others
it makes the same draws (R174). -/
theorem exec_draws_of_waits {i : Instr} {s t : State} (idle : s.inj = none)
    (h : exec i s = .next t) (waits : t.inj ≠ none) :
    ∃ run, ∀ answers,
      exec i { s with answers := answers } = .next (runDraws answers run s) := by
  obtain ⟨f, rfl⟩ | completes := exec_next_cases h
  · exact absurd ((recordFault_inj s f).trans idle) waits
  · cases completes with
    | injRnd count range =>
      refine ⟨.flips count.toNat s.ibuf, fun answers => ?_⟩
      rw [exec_injRnd (s := { s with answers := answers }) range, runDraws_overwrites]
    | injBst size range =>
      refine ⟨.burstStart size.toNat s.ibuf, fun answers => ?_⟩
      rw [exec_injBst (s := { s with answers := answers }) range, runDraws_overwrites]
    | injOdd range =>
      refine ⟨.oddCount s.ibuf, fun answers => ?_⟩
      rw [exec_injOdd (s := { s with answers := answers }) range, runDraws_overwrites]
    | _ => exact absurd idle waits

/-- A command that waits has had every answer at hand accepted, and stands at its next draw. -/
theorem awaitAnswer_of_waits {answers : List Nat} {run : InjRun} {s t : State}
    (h : runDraws answers run s = t) (waits : t.inj ≠ none) :
    ∃ (used : List Draw) (run' : InjRun), Accepted run used run' ∧
      answers = used.map Draw.answer ∧ t = awaitAnswer run' (recordDraws used s) := by
  have ends := runDraws_ends answers run s
  rw [h] at ends
  cases ends with
  | finished => cases waits rfl
  | waiting drawn all => exact ⟨_, _, drawn, all, rfl⟩
  | rejected => exact absurd (recordFault_inj _ _) waits

/-- A waiting command goes on where it stood, with the result of all the answers at once (R174). -/
theorem runDraws_append_of_waits {answers : List Nat} {run run' : InjRun} {s t : State}
    (h : runDraws answers run s = t) (waits : t.inj = some run') (late : List Nat) :
    runDraws (answers ++ late) run s = runDraws late run' t := by
  obtain ⟨used, now, drawn, rfl, rfl⟩ := awaitAnswer_of_waits h (waits ▸ Option.some_ne_none run')
  obtain rfl := Option.some.inj waits
  rw [runDraws_of_accepted drawn]
  exact (runDraws_overwrites late [] now (some now) _).symm

/-- Settles O53: the command makes the same draws with the late answers at hand from the start, and
its waiting registers are where the first answers led. -/
theorem lateAnswersChangeNothing : Obligations.LateAnswersChangeNothing := by
  rintro i s t late ⟨-, idle⟩ h waits
  obtain ⟨run, draws⟩ := exec_draws_of_waits idle h waits
  obtain ⟨run', stands⟩ := Option.ne_none_iff_exists'.mp waits
  have reached := Host.Outcome.next.inj ((draws s.answers).symm.trans h)
  refine ⟨_, draws _, ?_⟩
  rw [attachSource_waiting t late run' stands, runDraws_append_of_waits reached stands]

/-! ## What no injector command changes -/

/-- R180's promise, of the state `s` a command finds and the state `t` it leaves. -/
def KeepsInputAndLength (s t : State) : Prop :=
  t.ibuf = s.ibuf ∧ (t.err = none → t.inj = none → t.obuf.length = t.ibuf.length) ∧
    (t.err ≠ none → t.obuf = s.obuf)

theorem keepsInputAndLength_recordFault (f : CoreFault) (s : State) :
    KeepsInputAndLength s (recordFault f s) :=
  ⟨recordFault_ibuf s f, fun err => absurd err (recordFault_err_ne s f),
    fun _ => recordFault_obuf s f⟩

theorem keepsInputAndLength_runDraws {run : InjRun} {s : State} (err : s.err = none)
    (work : (injWork run).length = s.ibuf.length) (answers : List Nat) :
    KeepsInputAndLength s (runDraws answers run s) := by
  have ends := runDraws_ends answers run s
  generalize runDraws answers run s = t at ends
  cases ends with
  | finished drawn =>
    exact ⟨rfl, fun _ _ => drawn.length_injWork.trans work, fun fault => absurd err fault⟩
  | waiting => exact ⟨rfl, fun _ => nofun, fun fault => absurd err fault⟩
  | rejected => exact keepsInputAndLength_recordFault .rng _

/-- Settles O55: INJ.UND applies a mask of the data's length, and the other three keep the length of
their working copy from draw to draw. -/
theorem injectionKeepsInputAndLength : Obligations.InjectionKeepsInputAndLength := by
  refine ⟨fun i s t injector ready h => ?_, fun s answers inv waits => ?_⟩
  · obtain ⟨f, rfl⟩ | completes := exec_next_cases h
    · exact keepsInputAndLength_recordFault f s
    · cases completes with
      | injRnd | injBst | injOdd => exact keepsInputAndLength_runDraws ready.1 rfl s.answers
      | injUnd p shift g =>
        exact ⟨rfl, fun _ _ => applyMask_length s.ibuf g shift.toNat,
          fun fault => absurd ready.1 fault⟩
      | _ => simp at injector
  · obtain ⟨run, stands⟩ := Option.ne_none_iff_exists'.mp waits
    obtain ⟨ok, err, -⟩ := inv.waiting run stands
    rw [attachSource_waiting s answers run stands]
    exact keepsInputAndLength_runDraws err (underway_of_runOk ok).work answers

/-! ## A waiting command and the host -/

/-- The attach event is one step in every state (R172, R232). -/
theorem step_attach {s : State} {answers : List Nat} {rest : List HostEvent}
    (host : s.host = .attach answers :: rest) :
    step s = .next (attachSource answers { s with host := rest }) := by
  obtain inj | ⟨run, inj⟩ := Option.eq_none_or_eq_some s.inj
  · exact step_idle s host inj
  · exact step_waiting s host inj

/-- Settles O54: one transaction after the other, as the port of a waiting core answers it. -/
theorem waitingCommandYieldsOnlyToReset : Obligations.WaitingCommandYieldsOnlyToReset := by
  refine ⟨fun s run inj => ⟨fun host => step_silent_waiting s host inj,
    fun d rest host => step_waiting s host inj, fun rest host => ?reads, fun rest host => ?reset⟩,
    fun s answers rest host => ⟨step_attach host, fun inj => ?attached⟩⟩
  case reads =>
    obtain host | host | host | ⟨i, host⟩ := host <;> exact step_waiting s host inj
  case reset => exact ⟨_, step_reset s host, ⟨rfl, rfl⟩, rfl, rfl, rfl⟩
  case attached => rw [step_attach host, attachSource_idle { s with host := rest } answers inj]

end Sys2Proof.Machine
end

section
/-! INJ.RND, INJ.BST and INJ.ODD, as 43_error_injector.md lays them down (R175 to R177): what a series
of flips changes, and for each command the working registers after any number of its draws, from
which its result and its waits are read off. -/

namespace Sys2Proof.Machine

/-! ## What a series of flips changes -/

@[simp] theorem foldl_flipBit_length (picks : List Nat) (s : Bits) :
    (picks.foldl flipBit s).length = s.length :=
  List.foldlRecOn (motive := fun work => work.length = s.length) picks flipBit rfl
    fun work len i _ => (flipBit_length work i).trans len

@[simp] theorem differences_self (s : Bits) : differences s s = 0 := by
  simp [differences, xorBits, List.zipWith_self, List.count_eq_zero]

theorem differences_cons (b c : Bool) (s t : Bits) :
    differences (b :: s) (c :: t) = differences s t + (b ^^ c).toNat := by
  cases b <;> cases c <;> simp [differences, xorBits]

/-- Flipping a bit on which two sequences agree makes them differ in one position more. -/
theorem differences_flipBit_of_eq {s t : Bits} {i : Nat} (len : s.length = t.length)
    (lt : i < t.length) (agree : s[i]? = t[i]?) :
    differences s (flipBit t i) = differences s t + 1 := by
  induction t generalizing s i with
  | nil => cases lt
  | cons c t ih =>
    cases s with
    | nil => cases len
    | cons b s =>
      cases i with
      | zero =>
        obtain rfl : b = c := by simpa using agree
        have flipped : flipBit (b :: t) 0 = (!b) :: t := rfl
        rw [flipped, differences_cons, differences_cons]
        simp
      | succ i =>
        have flipped : flipBit (c :: t) (i + 1) = c :: flipBit t i := rfl
        rw [flipped, differences_cons, differences_cons, ih (Nat.succ.inj len)
          (Nat.lt_of_succ_lt_succ lt) (by simpa using agree), Nat.add_right_comm]

/-- A flip makes one difference more, or one less where there was one. -/
theorem differences_flipBit {s t : Bits} {i : Nat} (len : s.length = t.length)
    (lt : i < t.length) : differences s (flipBit t i) = differences s t + 1 ∨
      differences s (flipBit t i) + 1 = differences s t := by
  by_cases agree : s[i]? = t[i]?
  · exact .inl (differences_flipBit_of_eq len lt agree)
  · have agrees : s[i]? = (flipBit t i)[i]? := by
      rw [getElem?_flipBit, if_pos rfl]
      simpa [lt, len ▸ lt, Bool.eq_not] using agree
    have back := differences_flipBit_of_eq (len.trans (flipBit_length t i).symm)
      (lt.trans_eq (flipBit_length t i).symm) agrees
    rw [flipBit_flipBit] at back
    exact .inr back.symm

/-- Every pick changes the number of differences by one. -/
theorem differences_foldl_flipBit {s t : Bits} {picks : List Nat} (len : s.length = t.length)
    (inside : ∀ r ∈ picks, r < t.length) :
    differences s (picks.foldl flipBit t) ≤ differences s t + picks.length ∧
      differences s (picks.foldl flipBit t) % 2 = (differences s t + picks.length) % 2 := by
  induction picks generalizing t with
  | nil => simp
  | cons i picks ih =>
    rw [List.forall_mem_cons] at inside
    obtain ⟨le, parity⟩ := ih (t := flipBit t i) (by simpa using len) (by simpa using inside.2)
    rw [List.foldl_cons, List.length_cons]
    obtain more | less := differences_flipBit len inside.1 <;> omega

/-- Settles O47: a bit is flipped as often as its index occurs, and each flip makes one difference
more or one less. -/
theorem repeatedFlipsCancel : Obligations.RepeatedFlipsCancel := by
  intro data picks inside
  have counted := differences_foldl_flipBit rfl inside
  rw [differences_self, Nat.zero_add] at counted
  exact ⟨fun i => getElem?_foldl_flipBit picks data i, counted⟩

/-- Flips at distinct indices, on which two sequences agree, make one difference each. -/
theorem differences_foldl_flipBit_of_nodup {s t : Bits} {picks : List Nat}
    (len : s.length = t.length) (nodup : picks.Nodup) (inside : ∀ r ∈ picks, r < t.length)
    (agree : ∀ r ∈ picks, s[r]? = t[r]?) :
    differences s (picks.foldl flipBit t) = differences s t + picks.length := by
  induction picks generalizing t with
  | nil => rfl
  | cons i picks ih =>
    rw [List.forall_mem_cons] at inside agree
    obtain ⟨fresh, nodup⟩ := List.nodup_cons.mp nodup
    have others (r : Nat) (mem : r ∈ picks) : s[r]? = (flipBit t i)[r]? := by
      rw [getElem?_flipBit, if_neg (ne_of_mem_of_not_mem mem fresh).symm, agree.2 r mem]
    rw [List.foldl_cons, ih (by simpa using len) nodup (by simpa using inside.2) others,
      differences_flipBit_of_eq len inside.1 agree.1, List.length_cons, Nat.add_assoc,
      Nat.add_comm 1]

/-! ## Lists of draws -/

theorem getElem?_concat_of_ne {α : Type} {l : List α} {k : Nat} (a : α) (ne : k ≠ l.length) :
    (l ++ [a])[k]? = l[k]? := by
  obtain lt | gt := Nat.lt_or_gt_of_ne ne
  · exact List.getElem?_append_left lt
  · rw [List.getElem?_eq_none (by simpa using gt), List.getElem?_eq_none gt.le]

theorem map_answer_map (q : DrawRequest) (answers : List Nat) :
    (answers.map fun r => Draw.mk q r).map Draw.answer = answers := by
  simp [Function.comp_def]

theorem map_answer_mapIdx (q : Nat → DrawRequest) (answers : List Nat) :
    (answers.mapIdx fun k r => Draw.mk (q k) r).map Draw.answer = answers := by
  rw [List.mapIdx_eq_zipIdx_map, List.map_map]
  exact List.zipIdx_map_fst 0 answers

/-! ## INJ.RND -/

/-- Every draw of INJ.RND flips the bit that was answered (R175). -/
theorem accepted_flips {data : Bits} {picks : List Nat} {count : Nat}
    (few : picks.length ≤ count) (inside : ∀ r ∈ picks, r < data.length) :
    Accepted (.flips count data) (picks.map fun r => ⟨⟨.int, 0, data.length - 1⟩, r⟩)
      (.flips (count - picks.length) (picks.foldl flipBit data)) := by
  induction picks using List.reverseRecOn with
  | nil => exact .nil
  | append_singleton picks r ih =>
    rw [List.length_append, List.length_singleton] at few
    rw [List.forall_mem_append, List.forall_mem_singleton] at inside
    obtain ⟨before, last⟩ := inside
    have due : count - picks.length ≠ 0 := by omega
    have step := (ih (by omega) before).snoc (q := ⟨.int, 0, data.length - 1⟩) (r := r)
      (by simp [injRequest, due]) ((inRange_iff _ _).mpr ⟨Nat.zero_le r, by dsimp only; omega⟩)
    simpa [injAccept, Nat.sub_sub] using step

/-- Settles O46: the draws flip each answer, and with none left the command completes. -/
theorem injRndFlipsEachAnswer : Obligations.InjRndFlipsEachAnswer := by
  intro count s picks rest idle answers enough inside
  have range : ¬ (1 ≤ count.toNat ∧ s.ibuf = []) := by
    rintro ⟨pos, empty⟩
    obtain ⟨r, mem⟩ := List.exists_mem_of_length_pos (Nat.lt_of_lt_of_eq pos enough.symm)
    simpa [empty] using inside r mem
  have done := runDraws_completes (accepted_flips enough.le inside)
    (by simp [injRequest, enough]) idle rest
  rw [map_answer_map, ← answers] at done
  rw [exec_injRnd range, done]
  rfl

/-! ## INJ.BST -/

/-- After some of its flip decisions INJ.BST has flipped where the answer was 1 (R176). -/
theorem accepted_burst {data : Bits} {size start : Nat} {decisions : List Nat}
    (inside : start ≤ data.length - size) (few : decisions.length ≤ size)
    (bits : ∀ f ∈ decisions, f ≤ 1) :
    ∃ work, Accepted (.burstStart size data)
        (⟨⟨.int, 0, data.length - size⟩, start⟩ :: decisions.map fun f => ⟨⟨.bern, 0, 1⟩, f⟩)
        (.burst (start + decisions.length) (size - decisions.length) work) ∧
      ∀ i : Nat, work[i]? = data[i]?.map fun b =>
        if start ≤ i ∧ decisions[i - start]? = some 1 then !b else b := by
  induction decisions using List.reverseRecOn with
  | nil =>
    exact ⟨data, Accepted.nil.snoc rfl ((inRange_iff _ _).mpr ⟨Nat.zero_le _, inside⟩), by simp⟩
  | append_singleton decisions f ih =>
    rw [List.length_append, List.length_singleton] at few
    rw [List.forall_mem_append, List.forall_mem_singleton] at bits
    obtain ⟨before, bit⟩ := bits
    obtain ⟨work, drawn, flipped⟩ := ih (by omega) before
    have due : size - decisions.length ≠ 0 := by omega
    have step := drawn.snoc (q := ⟨.bern, 0, 1⟩) (r := f)
      (by simp [injRequest, due]) ((inRange_iff _ _).mpr ⟨Nat.zero_le f, bit⟩)
    refine ⟨if f = 1 then flipBit work (start + decisions.length) else work,
      by simpa [injAccept, Nat.sub_sub, Nat.add_assoc] using step, fun i => ?_⟩
    obtain rfl | elsewhere := eq_or_ne i (start + decisions.length)
    · split <;> simp [getElem?_flipBit, *]
    · have old : (start ≤ i ∧ (decisions ++ [f])[i - start]? = some 1) ↔
          (start ≤ i ∧ decisions[i - start]? = some 1) :=
        and_congr_right fun le => by rw [getElem?_concat_of_ne _ (by omega)]
      have kept : (if f = 1 then flipBit work (start + decisions.length) else work)[i]? =
          work[i]? := by
        split
        · rw [getElem?_flipBit, if_neg elsewhere.symm]
        · rfl
      simp only [kept, flipped, old]

/-- Settles O48: after the last flip decision nothing is left to draw, and the working copy differs
from the data where an answer in the window was 1. -/
theorem injBstFlipsInsideItsWindow : Obligations.InjBstFlipsInsideItsWindow := by
  intro size s start decisions rest idle answers enough fits inside bits
  obtain ⟨work, drawn, flipped⟩ := accepted_burst inside enough.le bits
  have done := runDraws_completes drawn (by simp [injRequest, enough]) idle rest
  rw [List.map_cons, map_answer_map, List.cons_append, ← answers] at done
  exact ⟨work, by rw [exec_injBst fits, done]; rfl, flipped⟩

/-! ## INJ.ODD -/

/-- The indices INJ.ODD has chosen after these ranks (R177). -/
def chosenByRanks (len : Nat) (ranks : List Nat) : List Nat :=
  ranks.foldl (fun chosen r => chosen ++ [unchosenAtRank len chosen r]) []

theorem chosenByRanks_concat (len : Nat) (ranks : List Nat) (r : Nat) :
    chosenByRanks len (ranks ++ [r]) =
      chosenByRanks len ranks ++ [unchosenAtRank len (chosenByRanks len ranks) r] :=
  List.foldl_concat ..

theorem chosenByRanks_length (len : Nat) (ranks : List Nat) :
    (chosenByRanks len ranks).length = ranks.length := by
  induction ranks using List.reverseRecOn with
  | nil => rfl
  | append_singleton ranks r ih => simp [chosenByRanks_concat, ih]

/-- Ranks in range: the k-th below the number of indices not yet chosen (R177). -/
def RanksInRange (len : Nat) (ranks : List Nat) : Prop :=
  ∀ (k : Nat) (r : Nat), ranks[k]? = some r → r ≤ len - 1 - k

theorem RanksInRange.of_concat {len r : Nat} {ranks : List Nat}
    (ok : RanksInRange len (ranks ++ [r])) :
    RanksInRange len ranks ∧ r ≤ len - 1 - ranks.length := by
  refine ⟨fun k x h => ok k x ?_, ok _ _ (by simp)⟩
  rw [List.getElem?_append_left (List.getElem?_eq_some_iff.mp h).1, h]

/-- Ranks fewer than the indices choose distinct indices inside the data (R177). -/
theorem chosenByRanks_ok {len : Nat} {ranks : List Nat} (few : ranks.length ≤ len)
    (ok : RanksInRange len ranks) :
    (chosenByRanks len ranks).Nodup ∧ ∀ i ∈ chosenByRanks len ranks, i < len := by
  induction ranks using List.reverseRecOn with
  | nil => exact ⟨.nil, nofun⟩
  | append_singleton ranks r ih =>
    rw [List.length_append, List.length_singleton] at few
    obtain ⟨before, last⟩ := ok.of_concat
    obtain ⟨nodup, inside⟩ := ih (by omega) before
    obtain ⟨lt, fresh⟩ := unchosenAtRank_mem nodup inside (r := r)
      (by rw [chosenByRanks_length]; omega)
    rw [chosenByRanks_concat, ← List.concat_eq_append]
    refine ⟨nodup.concat fresh, ?_⟩
    simpa [or_imp, forall_and] using ⟨inside, lt⟩

theorem getElem?_unchosen {len r : Nat} {chosen : List Nat} (nodup : chosen.Nodup)
    (inside : ∀ i ∈ chosen, i < len) (rank : r < len - chosen.length) :
    ((List.range len).filter fun i => !chosen.contains i)[r]? =
      some (unchosenAtRank len chosen r) := by
  rw [← length_filter_unchosen nodup inside] at rank
  rw [unchosenAtRank, List.getElem?_eq_getElem rank, Option.getD_some]

/-- The rank of an element of the filtered range is the number of elements before it. -/
theorem length_filter_range_of_getElem? {keep : Nat → Bool} {n r i : Nat}
    (h : ((List.range n).filter keep)[r]? = some i) :
    ((List.range i).filter keep).length = r := by
  induction n with
  | zero => simp at h
  | succ n ih =>
    rw [List.range_succ, List.filter_append] at h
    obtain lt | le := Nat.lt_or_ge r ((List.range n).filter keep).length
    · exact ih (by rwa [List.getElem?_append_left lt] at h)
    · rw [List.getElem?_append_right le, List.filter_singleton] at h
      cases kept : keep n with
      | false => simp [kept] at h
      | true =>
        obtain ⟨last, rfl⟩ : r - ((List.range n).filter keep).length = 0 ∧ n = i := by
          simpa [kept, List.getElem?_singleton] using h
        omega

/-- Every chosen index has the drawn rank among those not chosen before it (R177). -/
theorem rank_of_chosenByRanks {len : Nat} {ranks : List Nat} (few : ranks.length ≤ len)
    (ok : RanksInRange len ranks) {k i : Nat} (h : (chosenByRanks len ranks)[k]? = some i) :
    ranks[k]? = some ((List.range i).filter
      fun x => !((chosenByRanks len ranks).take k).contains x).length := by
  induction ranks using List.reverseRecOn with
  | nil => cases h
  | append_singleton ranks r ih =>
    rw [List.length_append, List.length_singleton] at few
    obtain ⟨before, last⟩ := ok.of_concat
    rw [chosenByRanks_concat] at h ⊢
    have count := chosenByRanks_length len ranks
    obtain rfl | ne := eq_or_ne k ranks.length
    · obtain ⟨nodup, inside⟩ := chosenByRanks_ok (by omega) before
      obtain rfl : unchosenAtRank len (chosenByRanks len ranks) r = i := by
        simpa [← count] using h
      have chosen := getElem?_unchosen nodup inside (r := r) (by omega)
      rw [List.take_left' count, length_filter_range_of_getElem? chosen]
      simp
    · rw [getElem?_concat_of_ne _ (count ▸ ne)] at h
      have lt := (List.getElem?_eq_some_iff.mp h).1
      rw [getElem?_concat_of_ne _ ne, List.take_append_of_le_length lt.le,
        ih (by omega) before h]

/-- After some of its ranks INJ.ODD has flipped the indices they choose (R177). -/
theorem accepted_odd {data : Bits} {j : Nat} {ranks : List Nat}
    (count : j ≤ data.length / 2 - 1) (few : ranks.length ≤ 2 * j + 1)
    (ok : RanksInRange data.length ranks) :
    Accepted (.oddCount data)
      (⟨⟨.int, 0, data.length / 2 - 1⟩, j⟩ ::
        ranks.mapIdx fun k r => ⟨⟨.int, 0, data.length - 1 - k⟩, r⟩)
      (.oddPick (2 * j + 1 - ranks.length) (chosenByRanks data.length ranks)
        ((chosenByRanks data.length ranks).foldl flipBit data)) := by
  induction ranks using List.reverseRecOn with
  | nil => exact Accepted.nil.snoc rfl ((inRange_iff _ _).mpr ⟨Nat.zero_le _, count⟩)
  | append_singleton ranks r ih =>
    rw [List.length_append, List.length_singleton] at few
    obtain ⟨before, last⟩ := ok.of_concat
    have due : 2 * j + 1 - ranks.length ≠ 0 := by omega
    have step := (ih (by omega) before).snoc (q := ⟨.int, 0, data.length - 1 - ranks.length⟩)
      (r := r) (by simp [injRequest, due, chosenByRanks_length])
      ((inRange_iff _ _).mpr ⟨Nat.zero_le r, last⟩)
    simpa [injAccept, Nat.sub_sub, chosenByRanks_concat] using step

/-- Settles O49: the ranks choose distinct indices, so every flip makes a difference of its own. -/
theorem injOddFlipsAnOddNumber : Obligations.InjOddFlipsAnOddNumber := by
  intro s j ranks rest idle answers two count enough ok
  have few : ranks.length ≤ s.ibuf.length := by omega
  obtain ⟨nodup, inside⟩ := chosenByRanks_ok few ok
  have len := (chosenByRanks_length s.ibuf.length ranks).trans enough
  have done := runDraws_completes (accepted_odd count enough.le ok)
    (by simp [injRequest, enough]) idle rest
  rw [List.map_cons, map_answer_mapIdx, List.cons_append, ← answers] at done
  refine ⟨chosenByRanks s.ibuf.length ranks, len, by omega, nodup, inside,
    fun k i => rank_of_chosenByRanks few ok, by rw [exec_injOdd two, done]; rfl, ?_⟩
  rw [differences_foldl_flipBit_of_nodup rfl nodup inside (fun _ _ => rfl), differences_self, len,
    Nat.zero_add]

/-! ## Waits -/

/-- An INJ command has made these draws and waits at the next one, with nothing written (R172). -/
def WaitsAt (i : Instr) (s : State) (used : List Draw) (next : DrawRequest) : Prop :=
  ∃ run, injRequest run = some next ∧
    exec i s = .next { s with answers := [], draws := s.draws ++ used, inj := some run }

theorem waitsAt_of_accepted {i : Instr} {s : State} {run run' : InjRun} {used : List Draw}
    {next : DrawRequest} (starts : exec i s = .next (runDraws s.answers run s))
    (answers : s.answers = used.map Draw.answer)
    (drawn : Accepted run used run') (request : injRequest run' = some next) :
    WaitsAt i s used next :=
  ⟨run', request, by rw [starts, answers, runDraws_waits drawn request]⟩

/-- Settles O52: the registers after any number of draws give the request a command waits at; any
command that waits has had all its answers accepted. -/
theorem unansweredDrawWaits : Obligations.UnansweredDrawWaits := by
  refine ⟨fun s ready => ⟨fun count nonempty few inside => ?rnd, fun size fits empty => ?bstStart,
    fun size start decisions fits answers inside bits few => ?bst, fun two empty => ?oddCount,
    fun j ranks two answers count ok few => ?odd⟩, fun i s t ready h waits => ?all⟩
  case rnd =>
    refine waitsAt_of_accepted (exec_injRnd (by simp [nonempty])) (map_answer_map _ _).symm
      (accepted_flips few.le inside) ?_
    simp [injRequest, Nat.sub_ne_zero_of_lt few]
  case bstStart => exact waitsAt_of_accepted (exec_injBst fits) empty .nil rfl
  case bst =>
    obtain ⟨work, drawn, -⟩ := accepted_burst inside few.le bits
    refine waitsAt_of_accepted (exec_injBst fits) ?_ drawn ?_
    · rw [List.map_cons, map_answer_map, answers]
    · simp [injRequest, Nat.sub_ne_zero_of_lt few]
  case oddCount => exact waitsAt_of_accepted (exec_injOdd two) empty .nil rfl
  case odd =>
    refine waitsAt_of_accepted (exec_injOdd two) ?_ (accepted_odd count few.le ok) ?_
    · rw [List.map_cons, map_answer_mapIdx, answers]
    · simp [injRequest, Nat.sub_ne_zero_of_lt few, chosenByRanks_length]
  case all =>
    obtain ⟨run, draws⟩ := exec_draws_of_waits ready.2 h waits
    have reached := Host.Outcome.next.inj ((draws s.answers).symm.trans h)
    obtain ⟨used, run', drawn, answers, rfl⟩ := awaitAnswer_of_waits reached waits
    exact ⟨used, answers.symm, fun d mem => (inRange_iff _ _).mp (drawn.inRange d mem), rfl⟩

end Sys2Proof.Machine
end

section
/-! The faults, as 60_exceptions.md lays them down (R200 to R212): the FAULT state, for each command
the conditions under which it raises a fault, and what the answers to its draws make of it. -/

namespace Sys2Proof.Machine

/-! ## The FAULT state -/

/-- With a fault recorded and no command in progress a reset alone writes STATUS.ERR (R211). -/
theorem transactIdle_keeps_fault {e : HostEvent} {s t : State} {f : CoreFault}
    (err : s.err = some f) (inj : s.inj = none) (noReset : e ≠ .reset)
    (h : transactIdle e s = .next t) : t.err = some f := by
  cases e with
  | command d =>
    cases (acceptCommand_faulted s d f err).symm.trans h
    exact err
  | attach answers =>
    cases h
    rwa [attachSource_idle s answers inj]
  | reset => exact absurd rfl noReset
  | readStatus | readIlen | readOlen | readOdata => cases h; exact err

/-- Settles O11: the port ignores the descriptor, reads answer as in every state (O19), and of the
transactions reset alone writes STATUS.ERR. -/
theorem faultStateIgnoresAllButReset : Obligations.FaultStateIgnoresAllButReset := by
  intro s f err inj
  have reads (rest : List HostEvent) := portReadsAnswerWithoutEffect s rest inj
  refine ⟨fun d rest host => ?ignored, fun rest => have ⟨status, _⟩ := reads rest; status,
    fun rest => have ⟨_, ilen, _⟩ := reads rest; ilen,
    fun rest => have ⟨_, _, olen, _⟩ := reads rest; olen,
    fun rest => have ⟨_, _, _, odata, _⟩ := reads rest; odata,
    fun t h noReset => ?stays, fun rest host => ⟨_, step_reset s host, rfl⟩⟩
  case ignored =>
    exact (step_idle s host inj).trans (acceptCommand_faulted { s with host := rest } d f err)
  case stays =>
    cases host : s.host with
    | nil =>
      cases (step_silent_idle s host inj).symm.trans h
      exact err
    | cons e rest =>
      rw [step_idle s host inj] at h
      exact transactIdle_keeps_fault (s := { s with host := rest }) err inj
        (fun reset => noReset rest (host.trans (reset ▸ rfl))) h

/-! ## The faults of the operands -/

/-- The commands with a polynomial operand (R73). -/
inductive HasPoly (p : Poly) : Instr → Prop where
  | crcDiv : HasPoly p (.crcDiv p)
  | crcGen : HasPoly p (.crcGen p)
  | crcVfy : HasPoly p (.crcVfy p)
  | injUnd (shift : Imm) : HasPoly p (.injUnd p shift)

/-- The conditions of R203 to R206 under which a command raises a fault before it writes or draws,
each with those that come before it (R212) excluded. OVERFLOW has none (R201). -/
inductive OperandFault (s : State) : Instr → CoreFault → Prop where
  | poly {p : Poly} {i : Instr} (takes : HasPoly p i)
      (invalid : validPattern (polyPattern p) = false) : OperandFault s i .poly
  | rangeRnd {count : Imm} (pos : 1 ≤ count.toNat) (empty : s.ibuf = []) :
      OperandFault s (.injRnd count) .range
  | rangeBst {size : Imm} (large : s.ibuf.length < size.toNat) :
      OperandFault s (.injBst size) .range
  | rangeOdd (few : s.ibuf.length < 2) : OperandFault s .injOdd .range
  | shortDiv {p : Poly} (valid : validPattern (polyPattern p) = true)
      (short : s.ibuf.length < (polyPattern p).length) : OperandFault s (.crcDiv p) .short
  | shortVfy {p : Poly} (valid : validPattern (polyPattern p) = true) (nonempty : s.ibuf ≠ [])
      (short : s.ibuf.length < (polyPattern p).length) : OperandFault s (.crcVfy p) .short
  | capPush {b : Bits} (full : s.maxLen < s.ibuf.length + b.length) : OperandFault s (.push b) .cap
  | capCks (full : s.maxLen < codewordLength s.ibuf) : OperandFault s .cksGen .cap
  | capGen {p : Poly} (valid : validPattern (polyPattern p) = true) (nonempty : s.ibuf ≠ [])
      (full : s.maxLen < s.ibuf.length + ((polyPattern p).length - 1)) :
      OperandFault s (.crcGen p) .cap
  | capDiv {p : Poly} (valid : validPattern (polyPattern p) = true)
      (long : (polyPattern p).length ≤ s.ibuf.length)
      (full : s.maxLen < (polyPattern p).length - 1) : OperandFault s (.crcDiv p) .cap

section
variable {s : State} {i : Instr} {f : CoreFault}

theorem exec_of_operandFault (h : OperandFault s i f) : exec i s = raise f s := by
  cases h with
  | poly takes invalid =>
    cases takes <;> simp only [exec, execCrcDiv, execCrcGen, execCrcVfy, execInjUnd,
      withPoly_of_invalid s _ _ invalid]
  | rangeRnd pos empty => exact if_pos ⟨pos, empty⟩
  | rangeBst large => exact if_pos large
  | rangeOdd few => exact if_pos few
  | shortDiv valid short => rw [exec, execCrcDiv, withPoly_of_valid _ _ _ valid, if_pos short]
  | shortVfy valid nonempty short =>
    rw [exec, execCrcVfy, withPoly_of_valid _ _ _ valid, if_neg nonempty, if_pos short]
  | capPush full => exact if_pos full
  | capCks full => exact if_pos full
  | capGen valid nonempty full =>
    rw [exec, execCrcGen, withPoly_of_valid _ _ _ valid, if_neg nonempty, if_pos full]
  | capDiv valid long full =>
    rw [exec, execCrcDiv, withPoly_of_valid _ _ _ valid, if_neg (not_lt.mpr long), if_pos full]

theorem exec_of_operandFault_of_ready (ready : Ready s) (h : OperandFault s i f) :
    exec i s = .next { s with err := some f } := by
  rw [exec_of_operandFault h, raise, recordFault_of_none s f ready.1]

theorem runDescriptor_illegal_of_ready {d : Descriptor} {why : Illegal} (ready : Ready s)
    (decoded : decode d = .illegal why) :
    runDescriptor d s = .next { s with err := some .illegal } := by
  rw [runDescriptor_illegal s d why decoded, raise, recordFault_of_none s .illegal ready.1]

end

/-- `Answers` with the reason of each fault: a command raises the fault whose condition it meets,
or it completes. -/
inductive Verdict (s : State) (i : Instr) : Outcome → Prop where
  | faults {f : CoreFault} (h : OperandFault s i f) : Verdict s i (raise f s)
  | completes {t : State} (h : Completes s i t) : Verdict s i (.next t)

section
variable {s : State} {i : Instr}

theorem Verdict.ite {c : Prop} [Decidable c] {o u : Outcome} (yes : c → Verdict s i o)
    (no : ¬ c → Verdict s i u) : Verdict s i (if c then o else u) := by
  split
  · next h => exact yes h
  · next h => exact no h

theorem Verdict.withPoly {p : Poly} {run : Bits → Outcome} (takes : HasPoly p i)
    (h : validPattern (polyPattern p) = true → Verdict s i (run (polyPattern p))) :
    Verdict s i (withPoly p s run) :=
  .ite h fun invalid => .faults (.poly takes (Bool.eq_false_of_not_eq_true invalid))

end

theorem verdict_execCrcDiv (s : State) (p : Poly) : Verdict s (.crcDiv p) (execCrcDiv p s) :=
  .withPoly .crcDiv fun valid =>
    .ite (fun short => .faults (.shortDiv valid short)) fun long =>
      .ite (fun full => .faults (.capDiv valid (not_lt.mp long) full)) fun fits =>
        .completes (.crcDiv p _ rfl valid (not_lt.mp long) (not_lt.mp fits))

theorem verdict_execCrcGen (s : State) (p : Poly) : Verdict s (.crcGen p) (execCrcGen p s) :=
  .withPoly .crcGen fun valid =>
    .ite (fun empty => .completes (.crcGenEmpty p _ rfl valid empty)) fun nonempty =>
      .ite (fun full => .faults (.capGen valid nonempty full)) fun fits =>
        .completes (.crcGen p _ rfl valid nonempty (not_lt.mp fits))

theorem verdict_execCrcVfy (s : State) (p : Poly) : Verdict s (.crcVfy p) (execCrcVfy p s) :=
  .withPoly .crcVfy fun valid =>
    .ite (fun empty => .completes (.crcVfyEmpty p _ rfl valid empty)) fun nonempty =>
      .ite (fun short => .faults (.shortVfy valid nonempty short)) fun long =>
        .completes (.crcVfy p _ rfl valid nonempty (not_lt.mp long))

theorem verdict_execInjUnd (s : State) (p : Poly) (shift : Imm) :
    Verdict s (.injUnd p shift) (execInjUnd p shift s) :=
  .withPoly (.injUnd shift) fun valid => .completes (.injUnd p shift _ rfl valid)

theorem verdict_exec (s : State) (i : Instr) : Verdict s i (exec i s) := by
  cases i with
  | nop => exact .completes .nop
  | clr => exact .completes .clr
  | push b =>
    exact .ite (fun full => .faults (.capPush full)) fun fits =>
      .completes (.push b (not_lt.mp fits))
  | mov => exact .completes .mov
  | cksGen =>
    refine .ite (fun full => .faults (.capCks full)) fun fits => ?_
    rw [checksumCodeword_eq_some]
    exact .completes (.cksGen _ (not_lt.mp fits) (checksumCodeword_eq_some s.ibuf))
  | cksVfy => exact .completes .cksVfy
  | crcDiv p => exact verdict_execCrcDiv s p
  | crcGen p => exact verdict_execCrcGen s p
  | crcVfy p => exact verdict_execCrcVfy s p
  | injRnd count =>
    exact .ite (fun empty => .faults (.rangeRnd empty.1 empty.2)) fun range =>
      .completes (.injRnd count range)
  | injBst size =>
    exact .ite (fun large => .faults (.rangeBst large)) fun range =>
      .completes (.injBst size (not_lt.mp range))
  | injOdd =>
    exact .ite (fun few => .faults (.rangeOdd few)) fun range =>
      .completes (.injOdd (not_lt.mp range))
  | injUnd p shift => exact verdict_execInjUnd s p shift

/-! ## The RNG fault -/

/-- What the answers to the draws `used` make of a command that found `s` and left `t`: all were in
range, or the last was not, and then STATUS.ERR and the source are all that changed (R207, R210). -/
inductive Judged (s t : State) (used : List Draw) : Prop where
  | accepted (err : t.err = none) (draws : t.draws = s.draws ++ used)
      (range : ∀ d ∈ used, inRange d.request d.answer = true)
  | rejected (answers : s.answers = used.map Draw.answer ++ t.answers)
      (state : t = { s with err := some .rng, answers := t.answers, draws := s.draws ++ used })
      (bad : ∃ d ∈ used, inRange d.request d.answer = false)

section
variable {s t : State} {i : Instr} {f : CoreFault}

theorem rejectAnswer_of_ready (ready : Ready s) (answers : List Nat) :
    rejectAnswer answers s = { s with err := some .rng, answers := answers } := by
  obtain ⟨err, inj⟩ := ready
  rw [rejectAnswer, recordFault_of_none { s with answers := answers, inj := none } .rng err, inj]

theorem judged_runDraws (ready : Ready s) (run : InjRun) :
    ∃ used, Judged s (runDraws s.answers run s) used := by
  have ends := runDraws_ends s.answers run s
  generalize runDraws s.answers run s = t at ends
  cases ends with
  | finished drawn => exact ⟨_, .accepted ready.1 rfl drawn.inRange⟩
  | waiting drawn => exact ⟨_, .accepted ready.1 rfl drawn.inRange⟩
  | @rejected used r rest run' q drawn split next bad =>
    refine ⟨used ++ [⟨q, r⟩], ?_⟩
    rw [rejectAnswer_of_ready (s := recordDraws _ s) ready]
    exact .rejected (by simpa using split) rfl ⟨_, List.mem_concat_self, bad⟩

theorem judged_of_completes (ready : Ready s) (h : Completes s i t) : ∃ used, Judged s t used := by
  cases h with
  | injRnd | injBst | injOdd => exact judged_runDraws ready _
  | _ => exact ⟨[], .accepted ready.1 (List.append_nil _).symm nofun⟩

/-- The inversion of a command in a state that accepts it, by the faults. -/
theorem exec_fault_cases (ready : Ready s) (h : exec i s = .next t) :
    (∃ f, OperandFault s i f ∧ t = { s with err := some f }) ∨ ∃ used, Judged s t used := by
  have verdict := verdict_exec s i
  rw [h] at verdict
  generalize ho : (.next t : Outcome) = o at verdict
  cases verdict with
  | faults fault =>
    cases ho
    exact .inl ⟨_, fault, recordFault_of_none s _ ready.1⟩
  | completes c =>
    cases ho
    exact .inr (judged_of_completes ready c)

/-- A recorded fault other than RNG stands for its condition. -/
theorem operandFault_of_err (ready : Ready s) (h : exec i s = .next t) (err : t.err = some f)
    (notRng : f ≠ .rng) : OperandFault s i f := by
  obtain ⟨f', fault, rfl⟩ | ⟨used, judged⟩ := exec_fault_cases ready h
  · cases err
    exact fault
  · cases judged with
    | accepted clean => cases clean.symm.trans err
    | rejected _ state =>
      rw [state] at err
      exact absurd (Option.some.inj err).symm notRng

end

/-- Settles O12: only the RNG fault comes after a draw, and the draws before it are on record. -/
theorem faultChangesOnlyErr : Obligations.FaultChangesOnlyErr := by
  intro d s t f ready h err
  have early (f' : CoreFault) (state : t = { s with err := some f' }) : ∃ used : List Draw,
      s.answers = used.map Draw.answer ++ t.answers ∧
        t = { s with err := some f, answers := t.answers, draws := s.draws ++ used } := by
    subst state
    cases err
    exact ⟨[], rfl, by simp⟩
  cases decoded : decode d with
  | illegal why =>
    cases (runDescriptor_illegal_of_ready ready decoded).symm.trans h
    exact early _ rfl
  | command i =>
    rw [runDescriptor_command s d i decoded] at h
    obtain ⟨f', -, state⟩ | ⟨used, judged⟩ := exec_fault_cases ready h
    · exact early f' state
    · cases judged with
      | accepted clean => cases clean.symm.trans err
      | rejected answers state bad =>
        obtain rfl : .rng = f := Option.some.inj ((congrArg State.err state).symm.trans err)
        exact ⟨used, answers, state⟩

theorem inRange_eq_false_iff (d : Draw) : inRange d.request d.answer = false ↔
    d.answer < d.request.lo ∨ d.request.hi < d.answer := by
  rw [← Bool.not_eq_true, inRange_iff, not_and_or, not_le, not_le]

/-- Settles O60: the invariant holds afterwards, so the draws on record are those R171 allows. -/
theorem rngFaultIsRaisedExactly : Obligations.RngFaultIsRaisedExactly := by
  intro i s t inv ready h
  obtain ⟨-, -, -, -, allowed⟩ := inv.exec ready h
  simp only [← inRange_eq_false_iff]
  obtain ⟨f, fault, rfl⟩ | ⟨used, judged⟩ := exec_fault_cases ready h
  · refine ⟨[], (List.append_nil _).symm, nofun, iff_of_false ?_ nofun⟩
    rintro ⟨⟩
    cases fault
  · cases judged with
    | accepted err draws range =>
      refine ⟨used, draws, fun d mem => allowed d (by simp [draws, mem]), iff_of_false ?_ ?_⟩
      · exact fun rng => nomatch err.symm.trans rng
      · rintro ⟨d, mem, bad⟩
        exact absurd (range d mem) (Bool.eq_false_iff.mp bad)
    | rejected answers state bad =>
      have draws : t.draws = s.draws ++ used := congrArg State.draws state
      exact ⟨used, draws, fun d mem => allowed d (by simp [draws, mem]),
        iff_of_true (congrArg State.err state) bad⟩

/-! ## POLY -/

theorem exists_hasPoly_of_psel {i : Instr} (psel : (encodeFields i).psel ≠ 0) :
    ∃ p, HasPoly p i := by
  cases i with
  | crcDiv p => exact ⟨p, .crcDiv⟩
  | crcGen p => exact ⟨p, .crcGen⟩
  | crcVfy p => exact ⟨p, .crcVfy⟩
  | injUnd p shift => exact ⟨p, .injUnd shift⟩
  | _ => exact absurd rfl psel

theorem HasPoly.carried {p : Poly} {i : Instr} (takes : HasPoly p i) (wf : i.wellFormed = true) :
    p.wellFormed = true ∧ (encodeFields i).psel = polySelector p ∧
      (encodeFields i).n = BitVec.ofNat 8 (polyLiteral p).length ∧
      (encodeFields i).data = dataOfBits (polyLiteral p) := by
  cases takes <;> exact ⟨wf, rfl, rfl, rfl⟩

theorem eq_literal_of_polySelector {p : Poly} (literal : polySelector p = 1) :
    ∃ b, p = .literal b := by
  cases p with
  | literal b => exact ⟨b, rfl⟩
  | crc8 | crc10 | crc16 | crc32 => exact absurd literal (by decide)

/-- The four named polynomials pass the check (R141). -/
theorem eq_literal_of_invalid {p : Poly} (invalid : validPattern (polyPattern p) = false) :
    ∃ b, p = .literal b := by
  cases p with
  | literal b => exact ⟨b, rfl⟩
  | crc8 | crc10 | crc16 | crc32 => exact absurd invalid (by decide)

/-- R203's condition on N and DATA: the first bit of a literal is DATA[N-1] (R75). -/
theorem validPattern_eq_false_iff {b : Bits} (fits : b.length ≤ Config.literalMax) :
    validPattern b = false ↔ BitVec.ofNat 8 b.length = 0 ∨
      (dataOfBits b).getLsbD ((BitVec.ofNat 8 b.length).toNat - 1) = false := by
  cases b with
  | nil => exact iff_of_true rfl (.inl rfl)
  | cons c b =>
    have len := toNat_ofNat_length fits
    have nonzero : BitVec.ofNat 8 (c :: b).length ≠ 0 := fun zero =>
      Nat.succ_ne_zero b.length (len.symm.trans (congrArg BitVec.toNat zero))
    have first : c = (dataOfBits (c :: b)).getLsbD ((c :: b).length - 1 - 0) :=
      Option.some.inj (getElem?_eq_getLsbD_dataOfBits fits (Nat.succ_pos b.length))
    rw [or_iff_right nonzero, len, ← Nat.sub_zero (_ - 1), ← first]
    cases c <;> simp [validPattern]

/-- R203's condition on the fields of a legal descriptor. -/
def BadLiteral (f : Fields) : Prop :=
  f.psel = 1 ∧ (f.n = 0 ∨ f.data.getLsbD (f.n.toNat - 1) = false)

/-- It is met exactly where the polynomial operand fails its check. -/
theorem badLiteral_encodeFields_iff {i : Instr} (wf : i.wellFormed = true) :
    BadLiteral (encodeFields i) ↔ ∃ p, HasPoly p i ∧ validPattern (polyPattern p) = false := by
  constructor
  · rintro ⟨literal, bad⟩
    obtain ⟨p, takes⟩ := exists_hasPoly_of_psel (i := i) (by rw [literal]; decide)
    obtain ⟨fits, psel, n, data⟩ := takes.carried wf
    obtain ⟨b, rfl⟩ := eq_literal_of_polySelector (psel.symm.trans literal)
    rw [n, data] at bad
    exact ⟨_, takes, (validPattern_eq_false_iff (of_decide_eq_true fits)).mpr bad⟩
  · rintro ⟨p, takes, invalid⟩
    obtain ⟨b, rfl⟩ := eq_literal_of_invalid invalid
    obtain ⟨fits, psel, n, data⟩ := takes.carried wf
    rw [BadLiteral, n, data]
    exact ⟨psel, (validPattern_eq_false_iff (of_decide_eq_true fits)).mp invalid⟩

theorem badLiteral_iff_of_decode {d : Descriptor} {i : Instr} (decoded : decode d = .command i) :
    BadLiteral (fieldsOf d) ↔ ∃ p, HasPoly p i ∧ validPattern (polyPattern p) = false := by
  obtain ⟨wf, rfl⟩ := decode_eq_command_iff.mp decoded
  rw [encode, fieldsOf_ofFields, badLiteral_encodeFields_iff wf]

/-- Settles O56: a legal descriptor has the fields of its command (O3), and POLY is the fault of a
polynomial operand that fails its check. -/
theorem polyFaultIsRaisedExactly : Obligations.PolyFaultIsRaisedExactly := by
  refine fun d s ready => ⟨?raised, fun t h err => ?only⟩
  case raised =>
    rintro ⟨⟨i, decoded⟩, bad⟩
    obtain ⟨p, takes, invalid⟩ := (badLiteral_iff_of_decode decoded).mp bad
    rw [runDescriptor_command s d i decoded]
    exact exec_of_operandFault_of_ready ready (.poly takes invalid)
  case only =>
    cases decoded : decode d with
    | illegal why =>
      cases (runDescriptor_illegal_of_ready ready decoded).symm.trans h
      cases err
    | command i =>
      rw [runDescriptor_command s d i decoded] at h
      cases operandFault_of_err ready h err nofun with
      | poly takes invalid =>
        exact ⟨⟨i, rfl⟩, (badLiteral_iff_of_decode decoded).mpr ⟨_, takes, invalid⟩⟩

/-! ## RANGE, SHORT and CAP -/

theorem validPattern_iff_head? (g : Bits) : validPattern g = true ↔ g.head? = some true :=
  beq_iff_eq

/-- Settles O57: the three conditions of R204 are those of the three injectors. -/
theorem rangeFaultIsRaisedExactly : Obligations.RangeFaultIsRaisedExactly := by
  refine fun i s ready => ⟨fun empty => exec_of_operandFault_of_ready ready ?_, fun t h err => ?_⟩
  · obtain ⟨c, rfl, pos, empty⟩ | ⟨b, rfl, large⟩ | ⟨rfl, few⟩ := empty
    · exact .rangeRnd pos empty
    · exact .rangeBst large
    · exact .rangeOdd few
  · cases operandFault_of_err ready h err nofun with
    | rangeRnd pos empty => exact .inl ⟨_, rfl, pos, empty⟩
    | rangeBst large => exact .inr (.inl ⟨_, rfl, large⟩)
    | rangeOdd few => exact .inr (.inr ⟨rfl, few⟩)

/-- Settles O58: the two divisions that can lack dividend bits. -/
theorem shortFaultIsRaisedExactly : Obligations.ShortFaultIsRaisedExactly := by
  refine fun i s ready => ⟨fun short => exec_of_operandFault_of_ready ready ?_, fun t h err => ?_⟩
  · obtain ⟨p, lead, short, rfl | ⟨rfl, pos⟩⟩ := short
    · exact .shortDiv ((validPattern_iff_head? _).mpr lead) short
    · exact .shortVfy ((validPattern_iff_head? _).mpr lead) (List.length_pos_iff.mp pos) short
  · cases operandFault_of_err ready h err nofun with
    | shortDiv valid short => exact ⟨_, (validPattern_iff_head? _).mp valid, short, .inl rfl⟩
    | shortVfy valid nonempty short =>
      exact ⟨_, (validPattern_iff_head? _).mp valid, short,
        .inr ⟨rfl, List.length_pos_iff.mpr nonempty⟩⟩

/-- Settles O59: the four results that can be too long; a valid polynomial has a first bit, so
`n - 1` loses nothing. -/
theorem capFaultIsRaisedExactly : Obligations.CapFaultIsRaisedExactly := by
  intro i s ready
  simp only [← validPattern_iff_head?, ← codewordLength_eq]
  refine ⟨fun full => exec_of_operandFault_of_ready ready ?_, fun t h err => ?_⟩
  · obtain ⟨b, rfl, full⟩ | ⟨rfl, full⟩ | ⟨p, rfl, valid, pos, full⟩ |
      ⟨p, rfl, valid, long, full⟩ := full
    · exact .capPush full
    · exact .capCks full
    · have first := List.length_pos_iff.mpr (ne_nil_of_validPattern valid)
      exact .capGen valid (List.length_pos_iff.mp pos) (by omega)
    · exact .capDiv valid long full
  · cases operandFault_of_err ready h err nofun with
    | capPush full => exact .inl ⟨_, rfl, full⟩
    | capCks full => exact .inr (.inl ⟨rfl, full⟩)
    | capGen valid nonempty full =>
      have first := List.length_pos_iff.mpr (ne_nil_of_validPattern valid)
      exact .inr (.inr (.inl ⟨_, rfl, valid, List.length_pos_iff.mpr nonempty, by omega⟩))
    | capDiv valid long full => exact .inr (.inr (.inr ⟨_, rfl, valid, long, full⟩))

end Sys2Proof.Machine
end

section
/-! That nothing is stuck, as 70_reset_and_hazards.md lays it down (R234): every command answers a
next state, and so does every step that finds no command in progress. A command whose draw has no
answer at hand answers the state in which it waits (log 3). -/

namespace Sys2Proof.Machine

/-- Of all that a command can answer, a fault it raised (R210) is a next state too. -/
theorem Answers.exists_next {s : State} {i : Instr} {o : Outcome} (h : Answers s i o) :
    ∃ t, o = .next t := by
  cases h with
  | fault f => exact ⟨_, rfl⟩
  | completes => exact ⟨_, rfl⟩

theorem runDescriptor_exists_next (d : Descriptor) (s : State) :
    ∃ t, runDescriptor d s = .next t := by
  cases decoded : decode d with
  | command i =>
    rw [runDescriptor_command s d i decoded]
    exact (answers_exec s i).exists_next
  | illegal why => exact ⟨_, runDescriptor_illegal s d why decoded⟩

theorem acceptCommand_exists_next (d : Descriptor) (s : State) :
    ∃ t, acceptCommand d s = .next t := by
  cases err : s.err with
  | none =>
    obtain ⟨u, run⟩ := runDescriptor_exists_next d s
    rw [acceptCommand_ready s d err]
    exact ⟨_, (afterCommand_eq_next _ _).mpr ⟨u, run, rfl⟩⟩
  | some f => exact ⟨_, acceptCommand_faulted s d f err⟩

theorem transactIdle_exists_next (e : HostEvent) (s : State) :
    ∃ t, transactIdle e s = .next t := by
  cases e with
  | command d => exact acceptCommand_exists_next d s
  | reset | readStatus | readIlen | readOlen | readOdata | attach => exact ⟨_, rfl⟩

theorem step_exists_next {s : State} (inj : s.inj = none) : ∃ t, step s = .next t := by
  cases host : s.host with
  | nil => exact ⟨s, step_silent_idle s host inj⟩
  | cons e rest =>
    rw [step_idle s host inj]
    exact transactIdle_exists_next e _

/-- Settles O15: a command answers a fault's next state or its completion's, and of the host's
transactions the command port alone has anything to run. -/
theorem everyCommandAnswersANextState : Obligations.EveryCommandAnswersANextState :=
  ⟨fun i s => (answers_exec s i).exists_next, fun _ => step_exists_next⟩

end Sys2Proof.Machine
end

section
/-! OVERFLOW, as 60_exceptions.md lays it down (R201): only `toBits` of CKS.GEN's folded sum could
raise it, and that sum fits its field. -/

namespace Sys2Proof.Machine

/-- R201: no operand makes a command fail with OVERFLOW. For CKS.GEN the inversion `verdict_exec`
rests on `checksumCodeword_eq_some`, and that on the bound of the fold (R104). -/
theorem exec_err_ne_overflow {s t : State} {i : Instr} (ready : Ready s)
    (h : exec i s = .next t) : t.err ≠ some .overflow := by
  intro err
  have fault : OperandFault s i .overflow := operandFault_of_err ready h err nofun
  cases fault

/-- Settles O13: an illegal descriptor leaves ILLEGAL, and a legal one runs its command. -/
theorem overflowIsNeverRaised : Obligations.OverflowIsNeverRaised := by
  intro d s t ready h
  cases decoded : decode d with
  | illegal why =>
    cases (runDescriptor_illegal_of_ready ready decoded).symm.trans h
    exact nofun
  | command i =>
    rw [runDescriptor_command s d i decoded] at h
    exact exec_err_ne_overflow ready h

end Sys2Proof.Machine
end
